-- ==== Sys2Proof/Word.lean ====
section
/-!
DEFINITION. Word.lean: the plain value types of the ACT core (spec/10_state.md R21, R22, R26; spec/30_encoding.md R80).

A nibble is 4 bits whatever the base, a register is 14 nibbles with nibble 0 least significant, an instruction word
is 10 bits and a bank-relative program counter fits 12 bits.
-/

namespace Sys2Proof

/-- A nibble: a 4-bit value 0 to 15 whatever the base (R22). -/
abbrev Nibble := BitVec 4

/-- An instruction word `w[9:0]` (R80). -/
abbrev Word := BitVec 10

/-- A bank-relative ROM address; `ROM_SIZE` is at most 4096 (R6, R26). -/
abbrev Pc := BitVec 12

/-- `N`, the nibbles per register: fixed at 14 (R6, R21). -/
abbrev nibbles : Nat := 14

/-- A register: a fixed sequence of 14 nibbles, nibble 0 least significant (R21). -/
abbrev Reg := Vector Nibble 14

/-- Nibble `i` of a register, `reg[X][i]` (R9, R12).  There is no nibble 14 and above: such an index reads 0, and no
operation of the model asks for one. -/
def Reg.nib (r : Reg) (i : Nat) : Nibble := r.toList.getD i 0

/-- The register whose nibble `i` is `f i`. -/
def Reg.build (f : Nat → Nibble) : Reg :=
  #v[f 0, f 1, f 2, f 3, f 4, f 5, f 6, f 7, f 8, f 9, f 10, f 11, f 12, f 13]

/-- The register all of whose nibbles are 0; also what the absent operand `ZERO` reads as (R12, R124). -/
def Reg.zero : Reg := Reg.build fun _ => 0

/-- A register literal: 14 hexadecimal digits, nibble 13 first (R9). -/
def Reg.ofHex (v : Nat) : Reg := Reg.build fun i => BitVec.ofNat 4 (v >>> (4 * i))

/-- The arithmetic radix (R33): 10 or 16. -/
inductive Radix where
  | decimal
  | binary
  deriving DecidableEq, Repr

/-- The radix as a number (R33). -/
def Radix.toNat : Radix → Nat
  | .decimal => 10
  | .binary => 16

end Sys2Proof
end

