-- ==== Sys2Proof/Syntax.lean ====
section
/-!
DEFINITION. Syntax.lean: the instructions, one constructor of `Instr` per row of spec/opcode_table.json (68 rows,
spec/30_encoding.md R102), and the names the opcode map is written in (R86 to R90).

An operand is held as the spec's rules name it: a field modifier, a page offset `t`, a number `n`.  For the pointer
instructions `n` is the value the permuted tables give (R224, R228, R229), not the table index `k`, as in the
assembler syntax (R100, R101).
-/

namespace Sys2Proof

/-- The eight field modifiers (spec/30_encoding.md R82). -/
inductive FieldMod where
  | p | wp | xs | x | s | m | w | ms
  deriving DecidableEq, Repr

/-- The 32 operations of the arithmetic class, in the order of R86's default numbering. -/
inductive ArithOp where
  | zeroA | zeroB | exchAB | copyAB | exchAC | copyCA | copyBC | exchBC
  | zeroC | addABA | addACA | addCCC | addACC | incA | shlA | incC
  | subABA | subACC | decA | decC | negC | complC | ifBZero | ifCZero
  | ifAGeC | ifAGeB | ifANonzero | ifCNonzero | subACA | shrA | shrB | shrC
  deriving DecidableEq, Repr

/-- The 34 operations of the special class (R87 to R90). -/
inductive SpecialOp where
  | nop | keysToRom | binary | decP | incP | ret | selectRom | cToDataAddress | clearDataRegisters | woodstock
  | setS | ifS1 | ifPEq | delayedSelectRom
  | clearRegisters | clearS | displayToggle | displayOff | m1ExchC | m1ToC | m2ExchC | m2ToC
  | stackToA | downRotate | yToA | cToStack | decimal | fToA | fExchA | loadN
  | resetS | ifS0 | ifPNe | setP
  deriving DecidableEq, Repr

/-- The instructions of the ACT core: 32 arithmetic, 2 branches, 34 special (R102). -/
inductive Instr where
  /-- `0 -> a[f]` (R151) -/
  | zeroA (fs : FieldMod)
  /-- `0 -> b[f]` (R152) -/
  | zeroB (fs : FieldMod)
  /-- `a exch b[f]` (R154) -/
  | exchAB (fs : FieldMod)
  /-- `a -> b[f]` (R155) -/
  | copyAB (fs : FieldMod)
  /-- `a exch c[f]` (R156) -/
  | exchAC (fs : FieldMod)
  /-- `c -> a[f]` (R157) -/
  | copyCA (fs : FieldMod)
  /-- `b -> c[f]` (R158) -/
  | copyBC (fs : FieldMod)
  /-- `b exch c[f]` (R159) -/
  | exchBC (fs : FieldMod)
  /-- `0 -> c[f]` (R153) -/
  | zeroC (fs : FieldMod)
  /-- `a + b -> a[f]` (R160) -/
  | addABA (fs : FieldMod)
  /-- `a + c -> a[f]` (R161) -/
  | addACA (fs : FieldMod)
  /-- `c + c -> c[f]` (R162) -/
  | addCCC (fs : FieldMod)
  /-- `a + c -> c[f]` (R163) -/
  | addACC (fs : FieldMod)
  /-- `a + 1 -> a[f]` (R164) -/
  | incA (fs : FieldMod)
  /-- `shift left a[f]` (R183) -/
  | shlA (fs : FieldMod)
  /-- `c + 1 -> c[f]` (R165) -/
  | incC (fs : FieldMod)
  /-- `a - b -> a[f]` (R166) -/
  | subABA (fs : FieldMod)
  /-- `a - c -> c[f]` (R167) -/
  | subACC (fs : FieldMod)
  /-- `a - 1 -> a[f]` (R168) -/
  | decA (fs : FieldMod)
  /-- `c - 1 -> c[f]` (R169) -/
  | decC (fs : FieldMod)
  /-- `0 - c -> c[f]` (R170) -/
  | negC (fs : FieldMod)
  /-- `0 - c - 1 -> c[f]` (R171) -/
  | complC (fs : FieldMod)
  /-- `if b[f] = 0` (R173) -/
  | ifBZero (fs : FieldMod)
  /-- `if c[f] = 0` (R174) -/
  | ifCZero (fs : FieldMod)
  /-- `if a >= c[f]` (R175) -/
  | ifAGeC (fs : FieldMod)
  /-- `if a >= b[f]` (R176) -/
  | ifAGeB (fs : FieldMod)
  /-- `if a[f] # 0` (R177) -/
  | ifANonzero (fs : FieldMod)
  /-- `if c[f] # 0` (R178) -/
  | ifCNonzero (fs : FieldMod)
  /-- `a - c -> a[f]` (R172) -/
  | subACA (fs : FieldMod)
  /-- `shift right a[f]` (R180) -/
  | shrA (fs : FieldMod)
  /-- `shift right b[f]` (R181) -/
  | shrB (fs : FieldMod)
  /-- `shift right c[f]` (R182) -/
  | shrC (fs : FieldMod)
  /-- `jsb L`: `t` is `L[7:0]` (R276) -/
  | jsb (t : BitVec 8)
  /-- `if nc goto L`: `t` is `L[7:0]` (R278) -/
  | ifNcGoto (t : BitVec 8)
  /-- `nop` (R200) -/
  | nop
  /-- `keys -> rom address` (R201) -/
  | keysToRom
  /-- `binary` (R202) -/
  | binary
  /-- `p - 1 -> p` (R203) -/
  | decP
  /-- `p + 1 -> p` (R204) -/
  | incP
  /-- `return` (R205) -/
  | ret
  /-- `select rom n` (R208) -/
  | selectRom (n : BitVec 4)
  /-- `c -> data address` (R206) -/
  | cToDataAddress
  /-- `clear data registers` (R207) -/
  | clearDataRegisters
  /-- `hi I'm woodstock` (R209) -/
  | woodstock
  /-- `1 -> s(n)` (R222) -/
  | setS (n : BitVec 4)
  /-- `if 1 = s(n)` (R223) -/
  | ifS1 (n : BitVec 4)
  /-- `if p = n` (R224); `n` is a value of PTEST -/
  | ifPEq (n : Nat)
  /-- `delayed select rom n` (R225) -/
  | delayedSelectRom (n : BitVec 4)
  /-- `clear registers` (R240) -/
  | clearRegisters
  /-- `clear s` (R241) -/
  | clearS
  /-- `display toggle` (R242) -/
  | displayToggle
  /-- `display off` (R243) -/
  | displayOff
  /-- `m1 exch c` (R246) -/
  | m1ExchC
  /-- `m1 -> c` (R247) -/
  | m1ToC
  /-- `m2 exch c` (R248) -/
  | m2ExchC
  /-- `m2 -> c` (R249) -/
  | m2ToC
  /-- `stack -> a` (R250) -/
  | stackToA
  /-- `down rotate` (R251) -/
  | downRotate
  /-- `y -> a` (R252) -/
  | yToA
  /-- `c -> stack` (R253) -/
  | cToStack
  /-- `decimal` (R256) -/
  | decimal
  /-- `f -> a` (R258) -/
  | fToA
  /-- `f exch a` (R259) -/
  | fExchA
  /-- `load n` (R260) -/
  | loadN (n : BitVec 4)
  /-- `0 -> s(n)` (R226) -/
  | resetS (n : BitVec 4)
  /-- `if 0 = s(n)` (R227) -/
  | ifS0 (n : BitVec 4)
  /-- `if p # n` (R228); `n` is a value of PTEST -/
  | ifPNe (n : Nat)
  /-- `p = n` (R229); `n` is a value of PSET -/
  | setP (n : Nat)
  deriving DecidableEq, Repr

end Sys2Proof
end

