-- ==== Sys2Proof/Config.lean ====
section
/-!
DEFINITION. Config.lean: the implementation parameters of spec/00_scope.md R6, as plain data.

The spec makes these ARGUMENTS OF THE MODEL, fixed for the processor's lifetime (R46, R298).  `step` has no argument
but the state, so `State` carries them (its field `params`), and nothing but the constructor `newProcessor` writes
them.  Their default values stand in Decode.lean (`Params.default`), beside the encoding tables.
-/

namespace Sys2Proof

/-- One row of the special-class opcode map (R87 to R90): the operation at group `g = w[3:2]`, sub-operation
`sub = w[5:4]` and selector `k = w[9:6]`.  `k = none` is a row for every `k` (the tables' `n<<6`, `k<<6`). -/
structure SpecialRow where
  op : SpecialOp
  g : BitVec 2
  sub : BitVec 2
  k : Option (BitVec 4)
  deriving DecidableEq, Repr

/-- `OPCODE_MAP` (R93): the operation of each arithmetic `op = w[9:5]`, in order, and the rows of the special class. -/
structure OpcodeMap where
  arith : List ArithOp
  special : List SpecialRow
  deriving DecidableEq, Repr

/-- `DIGIT_ADJUST` (R126), as plain data.  For operand nibbles below the base the source fixes the digits, which pins
the decimal add digit of the sums 10 to 19 and the decimal subtract digit of the differences -10 to -1; base 16 is
exact.  What is open is the decimal digit of the sums 20 to 31 and of the differences -16 to -11:
`mod16` is the spec's default `(s - base) mod 16`, `(d + base) mod 16`; `table` lists other digits, the add digit of
the sums 20, 21, … 31 and the subtract digit of the differences -11, -12, … -16. -/
inductive DigitAdjust where
  | mod16
  | table (add sub : List Nibble)
  deriving DecidableEq, Repr

/-- The parameters of R6. -/
structure Params where
  /-- `ROM_SIZE`: words per ROM bank. -/
  romSize : Nat
  /-- `BANKS`: the `bank_count` of `new_processor`. -/
  banks : Nat
  /-- `DATA_REGISTERS`: the `memory_count` of `new_processor`. -/
  dataRegisters : Nat
  /-- `STACK_SIZE`: return-address stack depth. -/
  stackSize : Nat
  /-- `CLASS11_STRICT` (conflict C5, decision D5). -/
  class11Strict : Bool
  /-- `ZERO_S_STICKY` as a mask: bit `i` is 1 when `i` is in the set (R221, conflict C9, decision D8). -/
  zeroSSticky : BitVec 16
  /-- `DIGIT_ADJUST` (R126, decision D9). -/
  digitAdjust : DigitAdjust
  /-- `OPCODE_MAP` (R93, decision D6). -/
  opcodeMap : OpcodeMap
  deriving DecidableEq, Repr

/-- Two special rows that some word would match both. -/
def SpecialRow.overlaps (r q : SpecialRow) : Bool :=
  r.g == q.g && r.sub == q.sub && (r.k.isNone || q.k.isNone || r.k == q.k)

/-- An opcode map the decoder of R95 reads without ambiguity: an operation for each of the 32 values of `op` (no
illegal arithmetic word, R97) and special rows no two of which overlap. -/
abbrev OpcodeMap.wf (m : OpcodeMap) : Prop :=
  m.arith.length = 32 ∧ m.special.Pairwise fun r q => r.overlaps q = false

/-- The ranges R6 gives the parameters.  A bank holds at least one page: `pc` is below `ROM_SIZE` (R26), so `ROM_SIZE` is not
0 (DEDUCED, log entry 2). -/
abbrev Params.wf (P : Params) : Prop :=
  P.romSize % 256 = 0 ∧ 256 ≤ P.romSize ∧ P.romSize ≤ 4096 ∧ 1 ≤ P.banks ∧ 1 ≤ P.stackSize ∧ P.opcodeMap.wf

end Sys2Proof
end

