-- ==== Sys2Proof/WellFormed.lean ====
section
/-!
DEFINITION. WellFormed.lean: which instruction terms stand for a word.

Every operand but the pointer numbers is typed by its width (R94), so it is always encodable.  `if p = n` and
`if p # n` name a value of PTEST, 0 to 13 ("`n = 14` cannot be encoded", R101); `p = n` names a value of PSET, 0 to 14
(R91).
-/

namespace Sys2Proof

/-- The pointer values the P-test table holds: 0 to 13 (spec/30_encoding.md R92). -/
abbrev pTestable (n : Nat) : Prop := n ≤ 13

/-- The pointer values the P-set table holds: 0 to 14 (R91). -/
abbrev pSettable (n : Nat) : Prop := n ≤ 14

/-- An instruction whose operands some word encodes (R94, R101). -/
abbrev Instr.WellFormed : Instr → Bool
  | .ifPEq n => decide (pTestable n)
  | .ifPNe n => decide (pTestable n)
  | .setP n => decide (pSettable n)
  | .zeroA _ | .zeroB _ | .exchAB _ | .copyAB _ | .exchAC _ | .copyCA _ | .copyBC _
  | .exchBC _ | .zeroC _ | .addABA _ | .addACA _ | .addCCC _ | .addACC _ | .incA _
  | .shlA _ | .incC _ | .subABA _ | .subACC _ | .decA _ | .decC _ | .negC _
  | .complC _ | .ifBZero _ | .ifCZero _ | .ifAGeC _ | .ifAGeB _ | .ifANonzero _ | .ifCNonzero _
  | .subACA _ | .shrA _ | .shrB _ | .shrC _ | .jsb _ | .ifNcGoto _ | .nop
  | .keysToRom | .binary | .decP | .incP | .ret | .selectRom _ | .cToDataAddress
  | .clearDataRegisters | .woodstock | .setS _ | .ifS1 _ | .delayedSelectRom _ | .clearRegisters | .clearS
  | .displayToggle | .displayOff | .m1ExchC | .m1ToC | .m2ExchC | .m2ToC | .stackToA
  | .downRotate | .yToA | .cToStack | .decimal | .fToA | .fExchA | .loadN _
  | .resetS _ | .ifS0 _ => true

end Sys2Proof
end

