-- ==== Sys2Proof/Decode.lean ====
section
/-!
DEFINITION. Decode.lean: the permuted pointer tables, the default opcode map, the decoder (spec/30_encoding.md R95) and,
after it, the encoder (R82 to R90, R101).

PRESUMED (log entry 3): every number of the default opcode map is the spec's general-knowledge default (R86 to R90,
decision D6); the map is a parameter and the decoder is defined for every map.
-/

namespace Sys2Proof

/-! ### The permuted pointer tables -/

/-- `PSET[0..15]` (R91): the value `p = n` writes, indexed by `k = w[9:6]`. -/
def psetTable : List Nat := [14, 4, 7, 8, 11, 2, 10, 12, 1, 3, 13, 6, 0, 9, 5, 14]

/-- `PTEST[0..15]` (R92): the value `if p = n` and `if p # n` compare with, indexed by `k = w[9:6]`. -/
def ptestTable : List Nat := [4, 8, 12, 2, 9, 1, 6, 3, 1, 13, 5, 0, 11, 10, 7, 4]

/-- `PSET[k]` (R91). -/
def pSet (k : BitVec 4) : Nat := psetTable.getD k.toNat 0

/-- `PTEST[k]` (R92). -/
def pTest (k : BitVec 4) : Nat := ptestTable.getD k.toNat 0

/-! ### The default parameters -/

/-- The arithmetic operations by `op = w[9:5]` (R86). -/
def defaultArith : List ArithOp :=
  [.zeroA, .zeroB, .exchAB, .copyAB, .exchAC, .copyCA, .copyBC, .exchBC,
   .zeroC, .addABA, .addACA, .addCCC, .addACC, .incA, .shlA, .incC,
   .subABA, .subACC, .decA, .decC, .negC, .complC, .ifBZero, .ifCZero,
   .ifAGeC, .ifAGeB, .ifANonzero, .ifCNonzero, .subACA, .shrA, .shrB, .shrC]

/-- Special group 0, `g = 00` (R87). -/
def group0Rows : List SpecialRow :=
  [⟨.nop, 0b00, 0b00, some 0⟩,
   ⟨.keysToRom, 0b00, 0b01, some 0⟩,
   ⟨.binary, 0b00, 0b01, some 1⟩,
   ⟨.decP, 0b00, 0b11, some 1⟩,
   ⟨.incP, 0b00, 0b00, some 2⟩,
   ⟨.ret, 0b00, 0b01, some 2⟩,
   ⟨.selectRom, 0b00, 0b10, none⟩,
   ⟨.cToDataAddress, 0b00, 0b11, some 9⟩,
   ⟨.clearDataRegisters, 0b00, 0b11, some 10⟩,
   ⟨.woodstock, 0b00, 0b11, some 15⟩]

/-- Special group 1, `g = 01` (R88). -/
def group1Rows : List SpecialRow :=
  [⟨.setS, 0b01, 0b00, none⟩,
   ⟨.ifS1, 0b01, 0b01, none⟩,
   ⟨.ifPEq, 0b01, 0b10, none⟩,
   ⟨.delayedSelectRom, 0b01, 0b11, none⟩]

/-- Special group 2, `g = 10` (R89). -/
def group2Rows : List SpecialRow :=
  [⟨.clearRegisters, 0b10, 0b00, some 0⟩,
   ⟨.clearS, 0b10, 0b00, some 1⟩,
   ⟨.displayToggle, 0b10, 0b00, some 2⟩,
   ⟨.displayOff, 0b10, 0b00, some 3⟩,
   ⟨.m1ExchC, 0b10, 0b00, some 4⟩,
   ⟨.m1ToC, 0b10, 0b00, some 5⟩,
   ⟨.m2ExchC, 0b10, 0b00, some 6⟩,
   ⟨.m2ToC, 0b10, 0b00, some 7⟩,
   ⟨.stackToA, 0b10, 0b00, some 8⟩,
   ⟨.downRotate, 0b10, 0b00, some 9⟩,
   ⟨.yToA, 0b10, 0b00, some 10⟩,
   ⟨.cToStack, 0b10, 0b00, some 11⟩,
   ⟨.decimal, 0b10, 0b00, some 12⟩,
   ⟨.fToA, 0b10, 0b00, some 14⟩,
   ⟨.fExchA, 0b10, 0b00, some 15⟩,
   ⟨.loadN, 0b10, 0b01, none⟩]

/-- Special group 3, `g = 11` (R90). -/
def group3Rows : List SpecialRow :=
  [⟨.resetS, 0b11, 0b00, none⟩,
   ⟨.ifS0, 0b11, 0b01, none⟩,
   ⟨.ifPNe, 0b11, 0b10, none⟩,
   ⟨.setP, 0b11, 0b11, none⟩]

/-- The default `OPCODE_MAP` (R93). -/
def OpcodeMap.default : OpcodeMap :=
  ⟨defaultArith, group0Rows ++ group1Rows ++ group2Rows ++ group3Rows⟩

/-- The parameters at the defaults of R6.  The spec gives no default for `BANKS` and `DATA_REGISTERS`: `BANKS = 1` is the
convention of spec/95_test_vectors.md, `DATA_REGISTERS = 16` is a DESIGN CHOICE (log entry 1). -/
def Params.default : Params where
  romSize := 4096
  banks := 1
  dataRegisters := 16
  stackSize := 2
  class11Strict := false
  zeroSSticky := 0x8020
  digitAdjust := .mod16
  opcodeMap := OpcodeMap.default

/-! ### The decoder -/

/-- Why the decoder rejects (R95, R97, R340). -/
inductive DecodeError where
  /-- The opcode is not in the documented set (DecoderFault cause 1, R341). -/
  | illegalOpcode
  /-- A class-11 word with `w[3:2] ≠ 11` under `CLASS11_STRICT` (DecoderFault cause 2, R341). -/
  | class11Subclass
  /-- A ROM cell with one of the bits 15:10 set: not an instruction word (R60); no cell of a constructed processor's
  ROM is one. -/
  | cellTooWide
  deriving DecidableEq, Repr

/-- The field modifier of `fs = w[4:2]` (R82). -/
def FieldMod.ofBits (fs : BitVec 3) : FieldMod :=
  match fs.toNat with
  | 0 => .p
  | 1 => .wp
  | 2 => .xs
  | 3 => .x
  | 4 => .s
  | 5 => .m
  | 6 => .w
  | _ => .ms

/-- An arithmetic operation with its field modifier, `ARITH(op, fs)` of R95. -/
def ArithOp.toInstr (op : ArithOp) (fs : FieldMod) : Instr :=
  match op with
  | .zeroA => .zeroA fs
  | .zeroB => .zeroB fs
  | .exchAB => .exchAB fs
  | .copyAB => .copyAB fs
  | .exchAC => .exchAC fs
  | .copyCA => .copyCA fs
  | .copyBC => .copyBC fs
  | .exchBC => .exchBC fs
  | .zeroC => .zeroC fs
  | .addABA => .addABA fs
  | .addACA => .addACA fs
  | .addCCC => .addCCC fs
  | .addACC => .addACC fs
  | .incA => .incA fs
  | .shlA => .shlA fs
  | .incC => .incC fs
  | .subABA => .subABA fs
  | .subACC => .subACC fs
  | .decA => .decA fs
  | .decC => .decC fs
  | .negC => .negC fs
  | .complC => .complC fs
  | .ifBZero => .ifBZero fs
  | .ifCZero => .ifCZero fs
  | .ifAGeC => .ifAGeC fs
  | .ifAGeB => .ifAGeB fs
  | .ifANonzero => .ifANonzero fs
  | .ifCNonzero => .ifCNonzero fs
  | .subACA => .subACA fs
  | .shrA => .shrA fs
  | .shrB => .shrB fs
  | .shrC => .shrC fs

/-- A special operation with its operand taken from `k = w[9:6]` (R94, R95). -/
def SpecialOp.toInstr : SpecialOp → BitVec 4 → Instr
  | .nop, _ => .nop
  | .keysToRom, _ => .keysToRom
  | .binary, _ => .binary
  | .decP, _ => .decP
  | .incP, _ => .incP
  | .ret, _ => .ret
  | .selectRom, k => .selectRom k
  | .cToDataAddress, _ => .cToDataAddress
  | .clearDataRegisters, _ => .clearDataRegisters
  | .woodstock, _ => .woodstock
  | .setS, k => .setS k
  | .ifS1, k => .ifS1 k
  | .ifPEq, k => .ifPEq (pTest k)
  | .delayedSelectRom, k => .delayedSelectRom k
  | .clearRegisters, _ => .clearRegisters
  | .clearS, _ => .clearS
  | .displayToggle, _ => .displayToggle
  | .displayOff, _ => .displayOff
  | .m1ExchC, _ => .m1ExchC
  | .m1ToC, _ => .m1ToC
  | .m2ExchC, _ => .m2ExchC
  | .m2ToC, _ => .m2ToC
  | .stackToA, _ => .stackToA
  | .downRotate, _ => .downRotate
  | .yToA, _ => .yToA
  | .cToStack, _ => .cToStack
  | .decimal, _ => .decimal
  | .fToA, _ => .fToA
  | .fExchA, _ => .fExchA
  | .loadN, k => .loadN k
  | .resetS, k => .resetS k
  | .ifS0, k => .ifS0 k
  | .ifPNe, k => .ifPNe (pTest k)
  | .setP, k => .setP (pSet k)

/-- Whether a row of the special map is the one of word `w`: `g = w[3:2]`, `sub = w[5:4]`, `k = w[9:6]` (R85). -/
def SpecialRow.hits (r : SpecialRow) (w : Word) : Bool :=
  r.g == w.extractLsb' 2 2 && r.sub == w.extractLsb' 4 2 && (r.k.isNone || r.k == some (w.extractLsb' 6 4))

/-- The decoder: a total function of the word and the parameters (R95). -/
def decode (P : Params) (w : Word) : Except DecodeError Instr :=
  match (w.extractLsb' 0 2).toNat with
  | 0 =>
    match P.opcodeMap.special.find? (·.hits w) with
    | some r => .ok (r.op.toInstr (w.extractLsb' 6 4))
    | none => .error .illegalOpcode
  | 1 => .ok (.jsb (w.extractLsb' 2 8))
  | 2 =>
    match P.opcodeMap.arith[(w.extractLsb' 5 5).toNat]? with
    | some op => .ok (op.toInstr (FieldMod.ofBits (w.extractLsb' 2 3)))
    | none => .error .illegalOpcode
  | _ =>
    if P.class11Strict && w.extractLsb' 2 2 != 0b11 then .error .class11Subclass
    else .ok (.ifNcGoto (w.extractLsb' 2 8))

/-- The decoder on a 16-bit ROM cell, the form in which the host holds a word (R60): bits 15:10 must be zero. -/
def decodeCell (P : Params) (cell : BitVec 16) : Except DecodeError Instr :=
  if cell.toNat < 1024 then decode P (BitVec.ofNat 10 cell.toNat) else .error .cellTooWide

/-- The instruction the decoder reads from the table word `w` of `nbits` bits, with the default parameters. -/
def decodeTableWord (nbits w : Nat) : Option Instr :=
  if w < 2 ^ nbits && w < 65536 then (decodeCell Params.default (BitVec.ofNat 16 w)).toOption else none

/-! ### The encoder -/

/-- The bits of a field modifier (R82). -/
def FieldMod.bits : FieldMod → BitVec 3
  | .p => 0
  | .wp => 1
  | .xs => 2
  | .x => 3
  | .s => 4
  | .m => 5
  | .w => 6
  | .ms => 7

/-- How a special instruction fixes its selector `k` (R94). -/
inductive Selector where
  /-- no operand: whatever the opcode map's row says -/
  | absent
  /-- the operand is `k` itself -/
  | direct (k : BitVec 4)
  /-- the operand is `PTEST[k]` -/
  | ptest (n : Nat)
  /-- the operand is `PSET[k]` -/
  | pset (n : Nat)
  deriving DecidableEq, Repr

/-- The four formats of R82 to R85, with their operands. -/
inductive Format where
  | arith (op : ArithOp) (fs : FieldMod)
  | special (op : SpecialOp) (sel : Selector)
  | jsb (t : BitVec 8)
  | branch (t : BitVec 8)
  deriving DecidableEq, Repr

/-- The format of an instruction (R81 to R90). -/
def Instr.format : Instr → Format
  | .zeroA fs => .arith .zeroA fs
  | .zeroB fs => .arith .zeroB fs
  | .exchAB fs => .arith .exchAB fs
  | .copyAB fs => .arith .copyAB fs
  | .exchAC fs => .arith .exchAC fs
  | .copyCA fs => .arith .copyCA fs
  | .copyBC fs => .arith .copyBC fs
  | .exchBC fs => .arith .exchBC fs
  | .zeroC fs => .arith .zeroC fs
  | .addABA fs => .arith .addABA fs
  | .addACA fs => .arith .addACA fs
  | .addCCC fs => .arith .addCCC fs
  | .addACC fs => .arith .addACC fs
  | .incA fs => .arith .incA fs
  | .shlA fs => .arith .shlA fs
  | .incC fs => .arith .incC fs
  | .subABA fs => .arith .subABA fs
  | .subACC fs => .arith .subACC fs
  | .decA fs => .arith .decA fs
  | .decC fs => .arith .decC fs
  | .negC fs => .arith .negC fs
  | .complC fs => .arith .complC fs
  | .ifBZero fs => .arith .ifBZero fs
  | .ifCZero fs => .arith .ifCZero fs
  | .ifAGeC fs => .arith .ifAGeC fs
  | .ifAGeB fs => .arith .ifAGeB fs
  | .ifANonzero fs => .arith .ifANonzero fs
  | .ifCNonzero fs => .arith .ifCNonzero fs
  | .subACA fs => .arith .subACA fs
  | .shrA fs => .arith .shrA fs
  | .shrB fs => .arith .shrB fs
  | .shrC fs => .arith .shrC fs
  | .jsb t => .jsb t
  | .ifNcGoto t => .branch t
  | .nop => .special .nop .absent
  | .keysToRom => .special .keysToRom .absent
  | .binary => .special .binary .absent
  | .decP => .special .decP .absent
  | .incP => .special .incP .absent
  | .ret => .special .ret .absent
  | .selectRom n => .special .selectRom (.direct n)
  | .cToDataAddress => .special .cToDataAddress .absent
  | .clearDataRegisters => .special .clearDataRegisters .absent
  | .woodstock => .special .woodstock .absent
  | .setS n => .special .setS (.direct n)
  | .ifS1 n => .special .ifS1 (.direct n)
  | .ifPEq n => .special .ifPEq (.ptest n)
  | .delayedSelectRom n => .special .delayedSelectRom (.direct n)
  | .clearRegisters => .special .clearRegisters .absent
  | .clearS => .special .clearS .absent
  | .displayToggle => .special .displayToggle .absent
  | .displayOff => .special .displayOff .absent
  | .m1ExchC => .special .m1ExchC .absent
  | .m1ToC => .special .m1ToC .absent
  | .m2ExchC => .special .m2ExchC .absent
  | .m2ToC => .special .m2ToC .absent
  | .stackToA => .special .stackToA .absent
  | .downRotate => .special .downRotate .absent
  | .yToA => .special .yToA .absent
  | .cToStack => .special .cToStack .absent
  | .decimal => .special .decimal .absent
  | .fToA => .special .fToA .absent
  | .fExchA => .special .fExchA .absent
  | .loadN n => .special .loadN (.direct n)
  | .resetS n => .special .resetS (.direct n)
  | .ifS0 n => .special .ifS0 (.direct n)
  | .ifPNe n => .special .ifPNe (.ptest n)
  | .setP n => .special .setP (.pset n)

/-- Whether selector `k` stands for the operand. -/
def Selector.admits : Selector → BitVec 4 → Bool
  | .absent, _ => true
  | .direct n, k => n == k
  | .ptest n, k => pTest k == n
  | .pset n, k => pSet k == n

/-- The values 0 to 15 of `k`, lowest first. -/
def selectors : List (BitVec 4) := (List.range 16).map (BitVec.ofNat 4)

/-- The lowest `k` that a row and an operand both admit ("the lowest index", R101 and decision D27). -/
def SpecialRow.selector (r : SpecialRow) (sel : Selector) : Option (BitVec 4) :=
  selectors.find? fun k => sel.admits k && (r.k.isNone || r.k == some k)

/-- The word of a special instruction: the first row of the map that holds its operation and admits its operand. -/
def encodeSpecial (rows : List SpecialRow) (op : SpecialOp) (sel : Selector) : Option Word :=
  rows.findSome? fun r =>
    if r.op = op then (r.selector sel).map fun k => k ++ r.sub ++ r.g ++ 0b00#2 else none

/-- The encoder (R82 to R90, R101): the word of an instruction, `none` when the parameters give it none (a pointer number
its table does not hold, an operation the map lacks, a branch offset `CLASS11_STRICT` excludes). -/
def encode (P : Params) (i : Instr) : Option Word :=
  match i.format with
  | .arith op fs => (P.opcodeMap.arith.take 32).findIdx? (· == op) |>.map fun n => BitVec.ofNat 5 n ++ fs.bits ++ 0b10#2
  | .special op sel => encodeSpecial P.opcodeMap.special op sel
  | .jsb t => some (t ++ 0b01#2)
  | .branch t => if P.class11Strict && t.extractLsb' 0 2 != 0b11 then none else some (t ++ 0b11#2)

end Sys2Proof
end

