-- ==== Sys2Proof/Machine/State.lean ====
section
/-!
DEFINITION. Machine/State.lean: everything the spec gives the machine (spec/10_state.md, R20 to R47), the two fault kinds
with their causes (spec/60_exceptions.md R340, R345), the host interface's refusals, and the machine after reset.
-/

namespace Sys2Proof.Machine

/-- The eight architectural registers; the instructions call M and N `m1` and `m2` (R20). -/
inductive RegName where
  | A | B | C | Y | Z | T | M | N
  deriving DecidableEq, Repr

/-- One cell of the ROM image: a word address and its 10-bit word (R60). -/
abbrev RomCell := Nat × Word

/-- The ROM image, the only addressed memory of the core (R60, R64): the cells that differ from what an unlisted address
reads as, by strictly rising address (`Memory.wf` in Ops.lean). -/
abbrev Memory := List RomCell

/-- The offending triple the core surfaces to the host (R345). -/
structure FaultRecord where
  bank : Nat
  pc : Pc
  opcode : Word
  deriving DecidableEq, Repr

/-- The fault outcomes of a tick (R340).  Each is the spec's own outcome, raised before the tick's first write
(R344), so none is a safe or unsafe departure: the hardware stops there too. -/
inductive Fault where
  /-- DecoderFault, cause 1: the opcode is not in the documented set (R341).  Raised by `step` when the decoder
  rejects the word.  Safe: the spec's own fault. -/
  | illegalOpcode (r : FaultRecord)
  /-- DecoderFault, cause 2: a class-11 word with `w[3:2] ≠ 11` under `CLASS11_STRICT` (R341).  Raised by `step`.
  Safe: the spec's own fault. -/
  | class11Subclass (r : FaultRecord)
  /-- DecoderFault, cause 3: a P or WP window with `p ≥ N` (R342).  Raised by every arithmetic instruction.
  Safe: the spec's own fault. -/
  | pointerWindow (r : FaultRecord)
  /-- DecoderFault, cause 4: `load n` with `p ≥ N` (R342).  Raised by `load n`.  Safe: the spec's own fault. -/
  | loadPointer (r : FaultRecord)
  /-- AddressFault, cause 1: the fetch address is outside the ROM (R343).  Raised by `step`; no run reaches it
  (R63).  Safe: the spec's own fault. -/
  | fetchAddress (r : FaultRecord)
  /-- AddressFault, cause 2: the page of `select rom n` is outside the bank (R343).  Raised by `select rom n`.
  Safe: the spec's own fault. -/
  | selectTarget (r : FaultRecord)
  /-- AddressFault, cause 3: the target of `jsb` or of a taken `if nc goto` is outside the bank (R343).  Raised by
  those two.  Safe: the spec's own fault. -/
  | transferTarget (r : FaultRecord)
  deriving DecidableEq, Repr

/-- The kind code of R340: DecoderFault 1, AddressFault 2. -/
def Fault.kind : Fault → Nat
  | .illegalOpcode _ | .class11Subclass _ | .pointerWindow _ | .loadPointer _ => 1
  | .fetchAddress _ | .selectTarget _ | .transferTarget _ => 2

/-- The cause code of R340. -/
def Fault.cause : Fault → Nat
  | .illegalOpcode _ => 1
  | .class11Subclass _ => 2
  | .pointerWindow _ => 3
  | .loadPointer _ => 4
  | .fetchAddress _ => 1
  | .selectTarget _ => 2
  | .transferTarget _ => 3

/-- The record `{bank, pc, opcode}` of R345. -/
def Fault.record : Fault → FaultRecord
  | .illegalOpcode r | .class11Subclass r | .pointerWindow r | .loadPointer r | .fetchAddress r | .selectTarget r
  | .transferTarget r => r

/-- The refusals.  A tick never refuses (R15): all but the first belong to the host interface. -/
inductive Refusal where
  /-- No meaning for the instruction yet; every instruction of the table has one, so nothing raises it.  Safe. -/
  | notModelled (mnemonic : String)
  /-- `set_key` with a key code above 255 (R296); no state change.  Safe: the spec's own refusal. -/
  | keycodeTooWide
  /-- `new_processor` with fewer than `BANKS * ROM_SIZE` cells (R60).  Safe: the spec's own refusal. -/
  | romImageTooShort
  /-- `new_processor` with a cell of 0x400 or more (R60).  Safe: the spec's own refusal. -/
  | romCellTooWide
  /-- `new_processor` with parameters outside the ranges of R6.  Safe: R6 gives such a processor no meaning. -/
  | parametersOutOfRange
  deriving DecidableEq, Repr

/-- The whole machine.  `params` and `rom` are the model's own carriage of what the spec calls parameters (R46): no
tick and no host operation but the constructor writes them (log entry 2). -/
structure State where
  /-- A, general (R20, R21) -/
  regA : Reg
  /-- B, general (R20, R21) -/
  regB : Reg
  /-- C, general (R20, R21) -/
  regC : Reg
  /-- Y, first register of the register stack (R20) -/
  regY : Reg
  /-- Z, second register of the register stack (R20) -/
  regZ : Reg
  /-- T, third register of the register stack (R20) -/
  regT : Reg
  /-- M, memory register `m1` (R20) -/
  regM : Reg
  /-- N, memory register `m2` (R20) -/
  regN : Reg
  /-- `ram[0..DATA_REGISTERS-1]`, the data registers (R25) -/
  ram : List Reg
  /-- `stack[0..STACK_SIZE-1]`, the ring of return addresses (R30) -/
  stack : List Pc
  /-- `sp`, the next free slot of `stack` (R30) -/
  sp : Nat
  /-- `pc`, bank-relative (R26) -/
  pc : Pc
  /-- `rom_bank`, the executing bank (R28) -/
  romBank : Nat
  /-- `delayed_bank`, the pending page (R29) -/
  delayedBank : BitVec 4
  /-- `p`, the pointer, 0 to 14 (R31) -/
  p : Nat
  /-- `f`, the F register, one nibble (R32) -/
  f : Nibble
  /-- `base`, the arithmetic radix (R33) -/
  base : Radix
  /-- `first`, the least nibble of the current field window (R34) -/
  first : Nat
  /-- `last`, the greatest nibble of the current field window (R34) -/
  last : Nat
  /-- `status[0..15]`, bit `i` being `s(i)` (R35) -/
  status : BitVec 16
  /-- MODE, 1 = Run (R39) -/
  mode : Bool
  /-- CARRY (R37) -/
  carry : Bool
  /-- PREV_CARRY (R38) -/
  prevCarry : Bool
  /-- DELAYED_ROM: a delayed page selection is pending (R29) -/
  delayedRom : Bool
  /-- DISPLAY_ENABLE (R36) -/
  displayEnable : Bool
  /-- TIMER, inert (R40) -/
  timer : Bool
  /-- TRACE (R41) -/
  trace : Bool
  /-- `keycode`, the last pressed key's index (R43) -/
  keycode : BitVec 8
  /-- `keydown`: a key is held (R44) -/
  keydown : Bool
  /-- `address`, the memory-address latch (R45) -/
  address : BitVec 8
  /-- the parameters (R6, R46); written by the constructor only -/
  params : Params
  /-- the ROM image (R46, R60); written by the constructor only -/
  rom : Memory
  deriving DecidableEq, Repr

/-- Every state item at its reset value (R47), for given parameters and ROM image, which reset does not change (R371). -/
def State.initial (P : Params) (rom : Memory) : State where
  regA := Reg.zero
  regB := Reg.zero
  regC := Reg.zero
  regY := Reg.zero
  regZ := Reg.zero
  regT := Reg.zero
  regM := Reg.zero
  regN := Reg.zero
  ram := List.replicate P.dataRegisters Reg.zero
  stack := List.replicate P.stackSize 0
  sp := 0
  pc := 0
  romBank := 0
  delayedBank := 0
  p := 0
  f := 0
  base := .decimal
  first := 0
  last := 0
  status := 0x0028
  mode := true
  carry := false
  prevCarry := false
  delayedRom := false
  displayEnable := false
  timer := false
  trace := false
  keycode := 0
  keydown := false
  address := 0
  params := P
  rom := rom

/-- The machine right after reset (R47, R370), with the default parameters and no ROM word listed (log entries 1, 4). -/
def State.reset : State := State.initial Params.default []

end Sys2Proof.Machine
end

