-- ==== Sys2Proof/Machine/Ops.lean ====
section
/-!
DEFINITION. Machine/Ops.lean: the named operations over memory, registers, the return-address stack and the pc, and
raising a fault (R12, R61, R272, R285, R286, R345).
-/

namespace Sys2Proof.Machine

/-- The outcome of a tick, of a meaning or of a host operation (R15). -/
abbrev Result := Host.Outcome State Fault Refusal

/-! ### The ROM image -/

/-- What an unlisted ROM address reads as: 0, the word of `nop`, as in "an erased or zero-filled ROM" (R200; log
entry 4). -/
def romBlank : Word := 0

/-- `RomRead(addr)` (R61). -/
def Memory.read : Memory → Nat → Word
  | [], _ => romBlank
  | (b, v) :: rest, a => if b = a then v else if a < b then romBlank else Memory.read rest a

/-- Putting a cell before the rest, unless it holds what an unlisted address reads as. -/
def Memory.cons (a : Nat) (v : Word) (rest : Memory) : Memory :=
  if v = romBlank then rest else (a, v) :: rest

/-- Storing a word in the image, which only the ROM's supplier does (R60, R62).  It keeps `Memory.wf`. -/
def Memory.write : Memory → Nat → Word → Memory
  | [], a, v => Memory.cons a v []
  | (b, u) :: rest, a, v =>
    if a < b then Memory.cons a v ((b, u) :: rest)
    else if a = b then Memory.cons a v rest
    else (b, u) :: Memory.write rest a v

/-- The image's addresses rise strictly, all at or above `lo`, and no cell holds the blank word. -/
def Memory.wfFrom : Nat → Memory → Bool
  | _, [] => true
  | lo, (a, v) :: rest => decide (lo ≤ a) && v != romBlank && Memory.wfFrom (a + 1) rest

/-- The canonical form of the image, in which equal images are equal data. -/
def Memory.wf (m : Memory) : Bool := Memory.wfFrom 0 m

/-- The image whose word at `a + j` is entry `j` of a list of ROM cells (R60). -/
def Memory.ofCells : Nat → List (BitVec 16) → Memory
  | _, [] => []
  | a, c :: rest => Memory.cons a (c.setWidth 10) (Memory.ofCells (a + 1) rest)

/-! ### Fetching -/

/-- `rom_bank * ROM_SIZE + pc` (R61). -/
def fetchAddress (s : State) : Nat := s.romBank * s.params.romSize + s.pc.toNat

/-- `BANKS * ROM_SIZE`, the words of the image (R60). -/
def romWords (P : Params) : Nat := P.banks * P.romSize

/-- The word at the fetch address (R61). -/
def fetchedWord (s : State) : Word := s.rom.read (fetchAddress s)

/-- The state with a word stored where the next tick fetches. -/
def storeAtFetch (s : State) (w : Word) : State := { s with rom := s.rom.write (fetchAddress s) w }

/-! ### Raising a fault -/

/-- Raising a fault (R344, R345): the tick ends at once with the record `(rom_bank, pc, w)`, where `w` is the word the
tick fetched.  Nothing is saved, no vector is entered and no state changes (R348): the outcome carries no state. -/
def raise (mk : FaultRecord → Fault) (s : State) : Result := .fault (mk ⟨s.romBank, s.pc, fetchedWord s⟩)

/-- The fetch fault (R343 cause 1): no word was fetched, so the record's opcode is 0 (R345). -/
def raiseFetch (s : State) : Result := .fault (.fetchAddress ⟨s.romBank, s.pc, 0⟩)

/-! ### The register file -/

/-- `reg[X]` (R12). -/
def State.getReg (s : State) : RegName → Reg
  | .A => s.regA
  | .B => s.regB
  | .C => s.regC
  | .Y => s.regY
  | .Z => s.regZ
  | .T => s.regT
  | .M => s.regM
  | .N => s.regN

/-- Writing the whole register `X`. -/
def State.setReg (s : State) (X : RegName) (r : Reg) : State :=
  match X with
  | .A => { s with regA := r }
  | .B => { s with regB := r }
  | .C => { s with regC := r }
  | .Y => { s with regY := r }
  | .Z => { s with regZ := r }
  | .T => { s with regT := r }
  | .M => { s with regM := r }
  | .N => { s with regN := r }

/-! ### The pc advance and the carry latch -/

/-- What an instruction answers to the advance (R272): the sequential next pc, or a net target (R274). -/
inductive Next where
  | seq
  | jump (target : Pc)
  deriving DecidableEq, Repr

/-- An address within the bank's window, `v mod ROM_SIZE` (R272). -/
def wrapPc (P : Params) (v : Nat) : Pc := BitVec.ofNat 12 (v % P.romSize)

/-- The pc the advance writes (R272). -/
def nextPc (s : State) : Next → Pc
  | .seq => wrapPc s.params (s.pc.toNat + 1)
  | .jump target => target

/-- `advance(next)`, the last step of every tick that does not fault (R272). -/
def advance (next : Next) (s : State) : State :=
  { s with pc := nextPc s next, prevCarry := s.carry, carry := false }

/-- The end of an instruction that goes on to the next word. -/
def finish (s : State) : Result := .next (advance .seq s)

/-- The end of an instruction that goes to a net target (R274). -/
def finishAt (target : Pc) (s : State) : Result := .next (advance (.jump target) s)

/-! ### Pages and transfers -/

/-- `pc[11:8]`, the page of the pc (R26). -/
def pageOf (pc : Pc) : BitVec 4 := pc.extractLsb' 8 4

/-- `pc[7:0]`, the offset in the page (R26). -/
def offsetOf (pc : Pc) : BitVec 8 := pc.extractLsb' 0 8

/-- `page * 256 + t` (R275). -/
def pageAddress (page : BitVec 4) (t : BitVec 8) : Pc := page ++ t

/-- The page a committing transfer lands in: the pending one, else the pc's own (R275). -/
def transferPage (s : State) : BitVec 4 := if s.delayedRom then s.delayedBank else pageOf s.pc

/-- The target of `jsb` and of a taken `if nc goto` (R276, R278). -/
def transferTarget (s : State) (t : BitVec 8) : Pc := pageAddress (transferPage s) t

/-- The commit of a pending selection (R280): the target already holds the page, so only the flag is cleared. -/
def commit (s : State) : State := { s with delayedRom := false }

/-! ### The return-address stack -/

/-- `push(v)` (R285). -/
def push (v : Pc) (s : State) : State :=
  { s with stack := s.stack.set s.sp v, sp := (s.sp + 1) % s.params.stackSize }

/-- `(sp - 1) mod STACK_SIZE`, the slot a pop reads (R286). -/
def popSlot (s : State) : Nat := (s.sp + (s.params.stackSize - 1)) % s.params.stackSize

/-- The value a pop returns (R286). -/
def popValue (s : State) : Pc := s.stack.getD (popSlot s) 0

/-- The state after a pop: the slot is not cleared (R286). -/
def dropSlot (s : State) : State := { s with sp := popSlot s }

end Sys2Proof.Machine
end

