-- ==== Sys2Proof/Machine/Operands.lean ====
section
/-!
DEFINITION. Machine/Operands.lean: the operand forms: field windows (spec/30_encoding.md R96), the absent operand
(spec/40_field_ops.md R124) and status bits (R35).
-/

namespace Sys2Proof.Machine

/-- A field window `(first, last)` (R10). -/
structure Window where
  first : Nat
  last : Nat
  deriving DecidableEq, Repr

/-- Whether nibble `i` lies in the field `[first..=last]` (R10). -/
def Window.has (w : Window) (i : Nat) : Bool := decide (w.first ≤ i) && decide (i ≤ w.last)

/-- `L = last - first + 1`, the nibbles of the field (R134). -/
def Window.width (w : Window) : Nat := w.last + 1 - w.first

/-- The window of a field modifier for a pointer value; `none` where P or WP meets `p ≥ N` (R96). -/
def window (fs : FieldMod) (p : Nat) : Option Window :=
  match fs with
  | .p => if p ≥ nibbles then none else some ⟨p, p⟩
  | .wp => if p ≥ nibbles then none else some ⟨0, p⟩
  | .xs => some ⟨2, 2⟩
  | .x => some ⟨0, 1⟩
  | .s => some ⟨13, 13⟩
  | .m => some ⟨3, 12⟩
  | .w => some ⟨0, 13⟩
  | .ms => some ⟨3, 13⟩

/-- Window W, which whole-register moves use (R121). -/
def wholeWindow : Window := ⟨0, 13⟩

/-- `(first, last) <- window` (R34, R96). -/
def State.setWindow (s : State) (w : Window) : State := { s with first := w.first, last := w.last }

/-- A source operand: a register, or `ZERO` when absent (R12, R124). -/
def State.operand (s : State) : Option RegName → Reg
  | some X => s.getReg X
  | none => Reg.zero

/-- The bit `s(n)` of the status word (R35). -/
def State.statusBit (s : State) (n : BitVec 4) : Bool := s.status.getLsbD n.toNat

/-- The mask of status bit `n`. -/
def bitMask (n : BitVec 4) : BitVec 16 := 1#16 <<< n.toNat

/-- `status[n] <- 1`. -/
def State.setStatusBit (s : State) (n : BitVec 4) : State := { s with status := s.status ||| bitMask n }

/-- `status[n] <- 0`. -/
def State.clearStatusBit (s : State) (n : BitVec 4) : State := { s with status := s.status &&& ~~~ bitMask n }

/-- `CLEAR_S_KEEP = (1, 2, 5, 15)` as a mask (R221). -/
def clearSKeep : BitVec 16 := 0x8026

/-- Whether `0 -> s(n)` must leave bit `n` alone: `n` in `ZERO_S_STICKY` while a key is down (R226). -/
def State.heldSticky (s : State) (n : BitVec 4) : Bool := s.params.zeroSSticky.getLsbD n.toNat && s.keydown

end Sys2Proof.Machine
end

