-- ==== Sys2Proof/Machine/Flags.lean ====
section
/-!
DEFINITION. Machine/Flags.lean: the digits and the carry of the digit-serial adder and subtracter
(spec/40_field_ops.md R125 to R128) and the verdicts of the tests (R129, R130, R223 to R228).

The carry into a digit is written as a function of how many digits lie below it in the field, so digit `first + k`
takes the carry out of digit `first + k - 1` and digit `first` takes the carry in.
-/

namespace Sys2Proof.Machine

/-! ### Digit adjustment -/

/-- `DIGIT_ADJUST_ADD(s, base)` (R126). -/
def digitAdjustAdd (P : Params) (base : Radix) (sum : Nat) : Nibble :=
  match P.digitAdjust, base with
  | .table add _, .decimal =>
    if 20 ≤ sum then add.getD (sum - 20) 0 else BitVec.ofNat 4 (sum - base.toNat)
  | _, _ => BitVec.ofNat 4 (sum - base.toNat)

/-- `DIGIT_ADJUST_SUB(-m, base)` (R126), for a difference below zero by `m`; `(base - m) mod 16` is written over the
naturals as `base + 16 - m`, `m` being at most 16. -/
def digitAdjustSub (P : Params) (base : Radix) (m : Nat) : Nibble :=
  match P.digitAdjust, base with
  | .table _ sub, .decimal =>
    if 11 ≤ m then sub.getD (m - 11) 0 else BitVec.ofNat 4 (base.toNat + 16 - m)
  | _, _ => BitVec.ofNat 4 (base.toNat + 16 - m)

/-! ### The adder (R125) -/

/-- `x[i] + y[i] + c`. -/
def digitSum (x y : Reg) (i : Nat) (c : Bool) : Nat := (x.nib i).toNat + (y.nib i).toNat + c.toNat

/-- The carry into digit `first + k` of the field (R125). -/
def addCarry (base : Radix) (x y : Reg) (cin : Bool) (first : Nat) : Nat → Bool
  | 0 => cin
  | k + 1 => decide (digitSum x y (first + k) (addCarry base x y cin first k) ≥ base.toNat)

/-- The digit of a sum (R125): the sum itself below the base, else the adjusted digit. -/
def sumDigit (P : Params) (base : Radix) (sum : Nat) : Nibble :=
  if sum ≥ base.toNat then digitAdjustAdd P base sum else BitVec.ofNat 4 sum

/-- Digit `i` of the sum of two registers over a field (R125). -/
def addDigit (P : Params) (base : Radix) (w : Window) (x y : Reg) (cin : Bool) (i : Nat) : Nibble :=
  sumDigit P base (digitSum x y i (addCarry base x y cin w.first (i - w.first)))

/-- The carry out of the field (R125). -/
def addCarryOut (base : Radix) (w : Window) (x y : Reg) (cin : Bool) : Bool :=
  addCarry base x y cin w.first w.width

/-! ### The subtracter (R127) -/

/-- `y[i] + c`, what is taken from `x[i]`. -/
def subtrahend (y : Reg) (i : Nat) (c : Bool) : Nat := (y.nib i).toNat + c.toNat

/-- The borrow into digit `first + k` of the field (R127). -/
def subBorrow (x y : Reg) (cin : Bool) (first : Nat) : Nat → Bool
  | 0 => cin
  | k + 1 => decide ((x.nib (first + k)).toNat < subtrahend y (first + k) (subBorrow x y cin first k))

/-- The digit of the difference of `u` and `v` (R127): the difference itself when not negative, else the adjusted digit. -/
def differenceDigit (P : Params) (base : Radix) (u v : Nat) : Nibble :=
  if u < v then digitAdjustSub P base (v - u) else BitVec.ofNat 4 (u - v)

/-- Digit `i` of the difference of two registers over a field (R127). -/
def subDigit (P : Params) (base : Radix) (w : Window) (x y : Reg) (cin : Bool) (i : Nat) : Nibble :=
  differenceDigit P base (x.nib i).toNat (subtrahend y i (subBorrow x y cin w.first (i - w.first)))

/-- The borrow out of the field (R127). -/
def subBorrowOut (w : Window) (x y : Reg) (cin : Bool) : Bool := subBorrow x y cin w.first w.width

/-! ### Verdicts -/

/-- Whether two registers agree on every nibble of a field (R129). -/
def fieldEq (w : Window) (x y : Reg) : Bool :=
  (List.range nibbles).all fun i => !w.has i || x.nib i == y.nib i

/-- `CARRY <- (condition) ? 0 : 1`: a test's verdict, carry 0 meaning "branch" (R129, R179, R223). -/
def State.verdict (s : State) (branch : Bool) : State := { s with carry := !branch }

end Sys2Proof.Machine
end

