-- ==== Sys2Proof/Machine/FieldOps.lean ====
section
/-!
DEFINITION. Machine/FieldOps.lean: the field-scoped register primitives of spec/40_field_ops.md as operations on the
state, and what every arithmetic instruction does around its operation (spec/41_arithmetic.md R150).

Each primitive takes the field from the window it is given and leaves every nibble outside it unchanged (R120).  All
operands are read before the destination is written (R133).
-/

namespace Sys2Proof.Machine

/-! ### Registers over a field -/

/-- The register that takes the nibbles of the field from `f` and the others from `old` (R120). -/
def overField (w : Window) (old : Reg) (f : Nat → Nibble) : Reg :=
  Reg.build fun i => if w.has i then f i else old.nib i

/-- The field of a register moved one nibble to the right; the vacated nibble `last` becomes 0 (R131). -/
def shiftedRight (w : Window) (x : Reg) : Reg := overField w x fun i => if i = w.last then 0 else x.nib (i + 1)

/-- The field of a register moved one nibble to the left; the vacated nibble `first` becomes 0 (R132). -/
def shiftedLeft (w : Window) (x : Reg) : Reg := overField w x fun i => if i = w.first then 0 else x.nib (i - 1)

/-! ### The primitives -/

/-- `copy(dst, src)` (R122): no flag is written. -/
def copy (w : Window) (dst : RegName) (src : Option RegName) (s : State) : State :=
  s.setReg dst (overField w (s.getReg dst) (s.operand src).nib)

/-- `exch(x, y)` (R123): no flag is written. -/
def exch (w : Window) (x y : RegName) (s : State) : State :=
  (s.setReg x (overField w (s.getReg x) (s.getReg y).nib)).setReg y (overField w (s.getReg y) (s.getReg x).nib)

/-- Writing a destination that may be absent: then the digits are discarded (R124). -/
def writeField (w : Window) (dst : Option RegName) (f : Nat → Nibble) (s : State) : State :=
  match dst with
  | some X => s.setReg X (overField w (s.getReg X) f)
  | none => s

/-- `add(dst, x, y, cin)` (R125): the digits to the destination, the carry out to CARRY. -/
def add (w : Window) (dst x y : Option RegName) (cin : Bool) (s : State) : State :=
  { writeField w dst (addDigit s.params s.base w (s.operand x) (s.operand y) cin) s with
    carry := addCarryOut s.base w (s.operand x) (s.operand y) cin }

/-- `sub(dst, x, y, cin)` (R127): the digits to the destination, the borrow out to CARRY. -/
def sub (w : Window) (dst x y : Option RegName) (cin : Bool) (s : State) : State :=
  { writeField w dst (subDigit s.params s.base w (s.operand x) (s.operand y) cin) s with
    carry := subBorrowOut w (s.operand x) (s.operand y) cin }

/-- `test_eq(x, y)` (R129): CARRY 0 exactly when the fields are equal. -/
def testEq (w : Window) (x y : Option RegName) (s : State) : State :=
  s.verdict (fieldEq w (s.operand x) (s.operand y))

/-- `test_ne(x, y)` (R130): CARRY 0 exactly when the fields differ. -/
def testNe (w : Window) (x y : Option RegName) (s : State) : State :=
  s.verdict (!fieldEq w (s.operand x) (s.operand y))

/-- `shr(x)` (R131): clears CARRY. -/
def shr (w : Window) (x : RegName) (s : State) : State :=
  { s.setReg x (shiftedRight w (s.getReg x)) with carry := false }

/-- `shl(x)` (R132): clears CARRY and PREV_CARRY. -/
def shl (w : Window) (x : RegName) (s : State) : State :=
  { s.setReg x (shiftedLeft w (s.getReg x)) with carry := false, prevCarry := false }

/-! ### Around the operation -/

/-- Execution of an arithmetic word (R150): the window of its field modifier, or DecoderFault cause 3; then the
operation on that window; then the advance. -/
def arithmetic (fs : FieldMod) (op : Window → State → State) (s : State) : Result :=
  match window fs s.p with
  | none => raise .pointerWindow s
  | some w => finish (op w (s.setWindow w))

/-- A special-class instruction that moves whole registers (R121, R244): window W, the operation, the advance. -/
def wholeRegister (op : State → State) (s : State) : Result := finish (op (s.setWindow wholeWindow))

end Sys2Proof.Machine
end

