-- ==== Sys2Proof/Machine/Arithmetic.lean ====
section
/-!
DEFINITION. Machine/Arithmetic.lean: the 32 instructions of the arithmetic class (spec/41_arithmetic.md), each one
primitive of FieldOps.lean over the window of its field modifier.  A plain add or subtract has carry in 0; increment,
decrement and `0 - c - 1` have carry in 1 (R128).
-/

namespace Sys2Proof.Machine

/-- `0 -> a[f]` (R151). -/
def execZeroA (fs : FieldMod) (s : State) : Result := arithmetic fs (fun w => copy w .A none) s

/-- `0 -> b[f]` (R152). -/
def execZeroB (fs : FieldMod) (s : State) : Result := arithmetic fs (fun w => copy w .B none) s

/-- `a exch b[f]` (R154). -/
def execExchAB (fs : FieldMod) (s : State) : Result := arithmetic fs (fun w => exch w .A .B) s

/-- `a -> b[f]` (R155). -/
def execCopyAB (fs : FieldMod) (s : State) : Result := arithmetic fs (fun w => copy w .B (some .A)) s

/-- `a exch c[f]` (R156). -/
def execExchAC (fs : FieldMod) (s : State) : Result := arithmetic fs (fun w => exch w .A .C) s

/-- `c -> a[f]` (R157). -/
def execCopyCA (fs : FieldMod) (s : State) : Result := arithmetic fs (fun w => copy w .A (some .C)) s

/-- `b -> c[f]` (R158). -/
def execCopyBC (fs : FieldMod) (s : State) : Result := arithmetic fs (fun w => copy w .C (some .B)) s

/-- `b exch c[f]` (R159). -/
def execExchBC (fs : FieldMod) (s : State) : Result := arithmetic fs (fun w => exch w .B .C) s

/-- `0 -> c[f]` (R153). -/
def execZeroC (fs : FieldMod) (s : State) : Result := arithmetic fs (fun w => copy w .C none) s

/-- `a + b -> a[f]` (R160). -/
def execAddABA (fs : FieldMod) (s : State) : Result := arithmetic fs (fun w => add w (some .A) (some .A) (some .B) false) s

/-- `a + c -> a[f]` (R161). -/
def execAddACA (fs : FieldMod) (s : State) : Result := arithmetic fs (fun w => add w (some .A) (some .A) (some .C) false) s

/-- `c + c -> c[f]` (R162). -/
def execAddCCC (fs : FieldMod) (s : State) : Result := arithmetic fs (fun w => add w (some .C) (some .C) (some .C) false) s

/-- `a + c -> c[f]` (R163). -/
def execAddACC (fs : FieldMod) (s : State) : Result := arithmetic fs (fun w => add w (some .C) (some .A) (some .C) false) s

/-- `a + 1 -> a[f]` (R164). -/
def execIncA (fs : FieldMod) (s : State) : Result := arithmetic fs (fun w => add w (some .A) (some .A) none true) s

/-- `shift left a[f]` (R183). -/
def execShlA (fs : FieldMod) (s : State) : Result := arithmetic fs (fun w => shl w .A) s

/-- `c + 1 -> c[f]` (R165). -/
def execIncC (fs : FieldMod) (s : State) : Result := arithmetic fs (fun w => add w (some .C) (some .C) none true) s

/-- `a - b -> a[f]` (R166). -/
def execSubABA (fs : FieldMod) (s : State) : Result := arithmetic fs (fun w => sub w (some .A) (some .A) (some .B) false) s

/-- `a - c -> c[f]` (R167). -/
def execSubACC (fs : FieldMod) (s : State) : Result := arithmetic fs (fun w => sub w (some .C) (some .A) (some .C) false) s

/-- `a - 1 -> a[f]` (R168). -/
def execDecA (fs : FieldMod) (s : State) : Result := arithmetic fs (fun w => sub w (some .A) (some .A) none true) s

/-- `c - 1 -> c[f]` (R169). -/
def execDecC (fs : FieldMod) (s : State) : Result := arithmetic fs (fun w => sub w (some .C) (some .C) none true) s

/-- `0 - c -> c[f]` (R170). -/
def execNegC (fs : FieldMod) (s : State) : Result := arithmetic fs (fun w => sub w (some .C) none (some .C) false) s

/-- `0 - c - 1 -> c[f]` (R171). -/
def execComplC (fs : FieldMod) (s : State) : Result := arithmetic fs (fun w => sub w (some .C) none (some .C) true) s

/-- `if b[f] = 0` (R173). -/
def execIfBZero (fs : FieldMod) (s : State) : Result := arithmetic fs (fun w => testEq w (some .B) none) s

/-- `if c[f] = 0` (R174). -/
def execIfCZero (fs : FieldMod) (s : State) : Result := arithmetic fs (fun w => testEq w (some .C) none) s

/-- `if a >= c[f]` (R175): the difference is discarded, CARRY is the borrow. -/
def execIfAGeC (fs : FieldMod) (s : State) : Result := arithmetic fs (fun w => sub w none (some .A) (some .C) false) s

/-- `if a >= b[f]` (R176): the difference is discarded, CARRY is the borrow. -/
def execIfAGeB (fs : FieldMod) (s : State) : Result := arithmetic fs (fun w => sub w none (some .A) (some .B) false) s

/-- `if a[f] # 0` (R177). -/
def execIfANonzero (fs : FieldMod) (s : State) : Result := arithmetic fs (fun w => testNe w (some .A) none) s

/-- `if c[f] # 0` (R178). -/
def execIfCNonzero (fs : FieldMod) (s : State) : Result := arithmetic fs (fun w => testNe w (some .C) none) s

/-- `a - c -> a[f]` (R172). -/
def execSubACA (fs : FieldMod) (s : State) : Result := arithmetic fs (fun w => sub w (some .A) (some .A) (some .C) false) s

/-- `shift right a[f]` (R180). -/
def execShrA (fs : FieldMod) (s : State) : Result := arithmetic fs (fun w => shr w .A) s

/-- `shift right b[f]` (R181). -/
def execShrB (fs : FieldMod) (s : State) : Result := arithmetic fs (fun w => shr w .B) s

/-- `shift right c[f]` (R182). -/
def execShrC (fs : FieldMod) (s : State) : Result := arithmetic fs (fun w => shr w .C) s

end Sys2Proof.Machine
end

