-- ==== Sys2Proof/Machine/Control.lean ====
section
/-!
DEFINITION. Machine/Control.lean: the two branch instructions (spec/45_control_and_tick.md R276, R278).
-/

namespace Sys2Proof.Machine

/-- `jsb L` (R276): pushes its own address, commits a pending page, lands on the target; AddressFault cause 3 when the
target is outside the bank. -/
def execJsb (t : BitVec 8) (s : State) : Result :=
  if (transferTarget s t).toNat ≥ s.params.romSize then raise .transferTarget s
  else finishAt (transferTarget s t) (commit (push s.pc s))

/-- `if nc goto L` (R278): taken when PREV_CARRY is 0, and only then does it commit a pending page or fault. -/
def execIfNcGoto (t : BitVec 8) (s : State) : Result :=
  if s.prevCarry then finish s
  else if (transferTarget s t).toNat ≥ s.params.romSize then raise .transferTarget s
  else finishAt (transferTarget s t) (commit s)

end Sys2Proof.Machine
end

