-- ==== Sys2Proof/Machine/Special0.lean ====
section
/-!
DEFINITION. Machine/Special0.lean: the ten instructions of special group 0 (spec/42_special_group0.md R200 to R209).
-/

namespace Sys2Proof.Machine

/-- `nop` (R200). -/
def execNop (s : State) : Result := finish s

/-- `keys -> rom address` (R201): offset `keycode` of the current page; it reads neither `keydown` nor DELAYED_ROM. -/
def execKeysToRom (s : State) : Result := finishAt (pageAddress (pageOf s.pc) s.keycode) s

/-- `binary` (R202). -/
def execBinary (s : State) : Result := finish { s with base := .binary }

/-- `p - 1 -> p` (R203): modulo 15, so 0 becomes 14. -/
def execDecP (s : State) : Result := finish { s with p := (s.p + nibbles) % (nibbles + 1) }

/-- `p + 1 -> p` (R204): modulo 15, so 14 becomes 0. -/
def execIncP (s : State) : Result := finish { s with p := (s.p + 1) % (nibbles + 1) }

/-- `return` (R205): to one past the popped address; no commit. -/
def execRet (s : State) : Result := finishAt (wrapPc s.params ((popValue s).toNat + 1)) (dropSlot s)

/-- `c -> data address` (R206): `address <- C[1] * 16 + C[0]`. -/
def execCToDataAddress (s : State) : Result :=
  finish { s with address := s.regC.nib 1 ++ s.regC.nib 0 }

/-- `clear data registers` (R207): every data register. -/
def execClearDataRegisters (s : State) : Result := finish { s with ram := s.ram.map fun _ => Reg.zero }

/-- `select rom n` (R208): page `n` of the current bank, one past the current offset; AddressFault cause 2 when the
page is outside the bank. -/
def execSelectRom (n : BitVec 4) (s : State) : Result :=
  if (pageAddress n (offsetOf s.pc)).toNat ≥ s.params.romSize then raise .selectTarget s
  else finishAt (wrapPc s.params ((pageAddress n (offsetOf s.pc)).toNat + 1)) s

/-- `hi I'm woodstock` (R209): a no-op that takes its tick. -/
def execWoodstock (s : State) : Result := finish s

end Sys2Proof.Machine
end

