-- ==== Sys2Proof/Machine/Special2.lean ====
section
/-!
DEFINITION. Machine/Special2.lean: the sixteen instructions of special group 2 (spec/44_special_group2.md R240 to R260).
None writes CARRY; only `load n` can fault (R244).
-/

namespace Sys2Proof.Machine

/-- `clear registers` (R240): the eight registers and nothing else. -/
def execClearRegisters (s : State) : Result :=
  wholeRegister (fun s =>
    copy wholeWindow .N none (copy wholeWindow .M none (copy wholeWindow .T none (copy wholeWindow .Z none
      (copy wholeWindow .Y none (copy wholeWindow .C none (copy wholeWindow .B none (copy wholeWindow .A none s)))))))) s

/-- `clear s` (R241): every status bit but those of `CLEAR_S_KEEP`. -/
def execClearS (s : State) : Result := finish { s with status := s.status &&& clearSKeep }

/-- `display toggle` (R242). -/
def execDisplayToggle (s : State) : Result := finish { s with displayEnable := !s.displayEnable }

/-- `display off` (R243). -/
def execDisplayOff (s : State) : Result := finish { s with displayEnable := false }

/-- `m1 exch c` (R246). -/
def execM1ExchC (s : State) : Result := wholeRegister (exch wholeWindow .M .C) s

/-- `m1 -> c` (R247). -/
def execM1ToC (s : State) : Result := wholeRegister (copy wholeWindow .C (some .M)) s

/-- `m2 exch c` (R248). -/
def execM2ExchC (s : State) : Result := wholeRegister (exch wholeWindow .N .C) s

/-- `m2 -> c` (R249). -/
def execM2ToC (s : State) : Result := wholeRegister (copy wholeWindow .C (some .N)) s

/-- `stack -> a` (R250): `(A, Y, Z) <- (Y, Z, T)`, T unchanged. -/
def execStackToA (s : State) : Result :=
  wholeRegister (fun s => { s with regA := s.regY, regY := s.regZ, regZ := s.regT }) s

/-- `down rotate` (R251): `(T, C, Y, Z) <- (C, Y, Z, T)`. -/
def execDownRotate (s : State) : Result :=
  wholeRegister (fun s => { s with regT := s.regC, regC := s.regY, regY := s.regZ, regZ := s.regT }) s

/-- `y -> a` (R252). -/
def execYToA (s : State) : Result := wholeRegister (copy wholeWindow .A (some .Y)) s

/-- `c -> stack` (R253): `(T, Z, Y) <- (Z, Y, C)`, C unchanged. -/
def execCToStack (s : State) : Result :=
  wholeRegister (fun s => { s with regT := s.regZ, regZ := s.regY, regY := s.regC }) s

/-- `decimal` (R256). -/
def execDecimal (s : State) : Result := finish { s with base := .decimal }

/-- `f -> a` (R258): nibble 0 of A only. -/
def execFToA (s : State) : Result :=
  finish { s.setWindow ⟨0, 0⟩ with regA := overField ⟨0, 0⟩ s.regA fun _ => s.f }

/-- `f exch a` (R259). -/
def execFExchA (s : State) : Result :=
  finish { s.setWindow ⟨0, 0⟩ with regA := overField ⟨0, 0⟩ s.regA (fun _ => s.f), f := s.regA.nib 0 }

/-- `load n` (R260): `C[p] <- n`, then `p` steps down modulo 14; DecoderFault cause 4 when there is no nibble `p`. -/
def execLoadN (n : BitVec 4) (s : State) : Result :=
  if s.p ≥ nibbles then raise .loadPointer s
  else finish { s.setWindow ⟨s.p, s.p⟩ with
    regC := overField ⟨s.p, s.p⟩ s.regC (fun _ => n), p := (s.p + (nibbles - 1)) % nibbles }

end Sys2Proof.Machine
end

