-- ==== Sys2Proof/Machine/StatusPointer.lean ====
section
/-!
DEFINITION. Machine/StatusPointer.lean: the eight instructions of special groups 1 and 3 (spec/43_status_pointer.md
R222 to R229).  None can fault (R220).
-/

namespace Sys2Proof.Machine

/-- `1 -> s(n)` (R222). -/
def execSetS (n : BitVec 4) (s : State) : Result := finish (s.setStatusBit n)

/-- `if 1 = s(n)` (R223). -/
def execIfS1 (n : BitVec 4) (s : State) : Result := finish (s.verdict (s.statusBit n))

/-- `if p = n` (R224). -/
def execIfPEq (n : Nat) (s : State) : Result := finish (s.verdict (decide (s.p = n)))

/-- `delayed select rom n` (R225). -/
def execDelayedSelectRom (n : BitVec 4) (s : State) : Result :=
  finish { s with delayedBank := n, delayedRom := true }

/-- `0 -> s(n)` (R226): sticky bits stay while a key is down. -/
def execResetS (n : BitVec 4) (s : State) : Result :=
  finish (if s.heldSticky n then s else s.clearStatusBit n)

/-- `if 0 = s(n)` (R227). -/
def execIfS0 (n : BitVec 4) (s : State) : Result := finish (s.verdict (!s.statusBit n))

/-- `if p # n` (R228). -/
def execIfPNe (n : Nat) (s : State) : Result := finish (s.verdict (decide (s.p ≠ n)))

/-- `p = n` (R229). -/
def execSetP (n : Nat) (s : State) : Result := finish { s with p := n }

end Sys2Proof.Machine
end

