-- ==== Sys2Proof/Machine/Dispatch.lean ====
section
/-!
DEFINITION. Machine/Dispatch.lean: the meaning of each instruction, one arm per constructor of `Instr`.
-/

namespace Sys2Proof.Machine

def exec (i : Instr) (s : State) : Host.Outcome State Fault Refusal :=
  match i with
  | .zeroA fs => Sys2Proof.Machine.execZeroA fs s
  | .zeroB fs => Sys2Proof.Machine.execZeroB fs s
  | .exchAB fs => Sys2Proof.Machine.execExchAB fs s
  | .copyAB fs => Sys2Proof.Machine.execCopyAB fs s
  | .exchAC fs => Sys2Proof.Machine.execExchAC fs s
  | .copyCA fs => Sys2Proof.Machine.execCopyCA fs s
  | .copyBC fs => Sys2Proof.Machine.execCopyBC fs s
  | .exchBC fs => Sys2Proof.Machine.execExchBC fs s
  | .zeroC fs => Sys2Proof.Machine.execZeroC fs s
  | .addABA fs => Sys2Proof.Machine.execAddABA fs s
  | .addACA fs => Sys2Proof.Machine.execAddACA fs s
  | .addCCC fs => Sys2Proof.Machine.execAddCCC fs s
  | .addACC fs => Sys2Proof.Machine.execAddACC fs s
  | .incA fs => Sys2Proof.Machine.execIncA fs s
  | .shlA fs => Sys2Proof.Machine.execShlA fs s
  | .incC fs => Sys2Proof.Machine.execIncC fs s
  | .subABA fs => Sys2Proof.Machine.execSubABA fs s
  | .subACC fs => Sys2Proof.Machine.execSubACC fs s
  | .decA fs => Sys2Proof.Machine.execDecA fs s
  | .decC fs => Sys2Proof.Machine.execDecC fs s
  | .negC fs => Sys2Proof.Machine.execNegC fs s
  | .complC fs => Sys2Proof.Machine.execComplC fs s
  | .ifBZero fs => Sys2Proof.Machine.execIfBZero fs s
  | .ifCZero fs => Sys2Proof.Machine.execIfCZero fs s
  | .ifAGeC fs => Sys2Proof.Machine.execIfAGeC fs s
  | .ifAGeB fs => Sys2Proof.Machine.execIfAGeB fs s
  | .ifANonzero fs => Sys2Proof.Machine.execIfANonzero fs s
  | .ifCNonzero fs => Sys2Proof.Machine.execIfCNonzero fs s
  | .subACA fs => Sys2Proof.Machine.execSubACA fs s
  | .shrA fs => Sys2Proof.Machine.execShrA fs s
  | .shrB fs => Sys2Proof.Machine.execShrB fs s
  | .shrC fs => Sys2Proof.Machine.execShrC fs s
  | .jsb t => Sys2Proof.Machine.execJsb t s
  | .ifNcGoto t => Sys2Proof.Machine.execIfNcGoto t s
  | .nop => Sys2Proof.Machine.execNop s
  | .keysToRom => Sys2Proof.Machine.execKeysToRom s
  | .binary => Sys2Proof.Machine.execBinary s
  | .decP => Sys2Proof.Machine.execDecP s
  | .incP => Sys2Proof.Machine.execIncP s
  | .ret => Sys2Proof.Machine.execRet s
  | .selectRom n => Sys2Proof.Machine.execSelectRom n s
  | .cToDataAddress => Sys2Proof.Machine.execCToDataAddress s
  | .clearDataRegisters => Sys2Proof.Machine.execClearDataRegisters s
  | .woodstock => Sys2Proof.Machine.execWoodstock s
  | .setS n => Sys2Proof.Machine.execSetS n s
  | .ifS1 n => Sys2Proof.Machine.execIfS1 n s
  | .ifPEq n => Sys2Proof.Machine.execIfPEq n s
  | .delayedSelectRom n => Sys2Proof.Machine.execDelayedSelectRom n s
  | .clearRegisters => Sys2Proof.Machine.execClearRegisters s
  | .clearS => Sys2Proof.Machine.execClearS s
  | .displayToggle => Sys2Proof.Machine.execDisplayToggle s
  | .displayOff => Sys2Proof.Machine.execDisplayOff s
  | .m1ExchC => Sys2Proof.Machine.execM1ExchC s
  | .m1ToC => Sys2Proof.Machine.execM1ToC s
  | .m2ExchC => Sys2Proof.Machine.execM2ExchC s
  | .m2ToC => Sys2Proof.Machine.execM2ToC s
  | .stackToA => Sys2Proof.Machine.execStackToA s
  | .downRotate => Sys2Proof.Machine.execDownRotate s
  | .yToA => Sys2Proof.Machine.execYToA s
  | .cToStack => Sys2Proof.Machine.execCToStack s
  | .decimal => Sys2Proof.Machine.execDecimal s
  | .fToA => Sys2Proof.Machine.execFToA s
  | .fExchA => Sys2Proof.Machine.execFExchA s
  | .loadN n => Sys2Proof.Machine.execLoadN n s
  | .resetS n => Sys2Proof.Machine.execResetS n s
  | .ifS0 n => Sys2Proof.Machine.execIfS0 n s
  | .ifPNe n => Sys2Proof.Machine.execIfPNe n s
  | .setP n => Sys2Proof.Machine.execSetP n s

end Sys2Proof.Machine
end

