-- ==== Sys2Proof/Machine/Step.lean ====
section
/-!
DEFINITION. Machine/Step.lean: the tick (spec/45_control_and_tick.md R270) and the placing of one word where it fetches.
-/

namespace Sys2Proof.Machine

/-- `tick` (R270): the fetch check, the fetch, the decode, the execution.  The window of an arithmetic word and the
advance are part of each meaning; a fault of any check ends the tick with no state (R271, R344, R346). -/
def step (s : State) : Host.Outcome State Fault Refusal :=
  if fetchAddress s ≥ romWords s.params then raiseFetch s
  else
    match decode s.params (fetchedWord s) with
    | .ok i => exec i s
    | .error .class11Subclass => raise .class11Subclass s
    | .error _ => raise .illegalOpcode s

/-- `s` with the table word `w` stored at the address the next tick fetches from.  A table word has one 10-bit word, so
`nbits` plays no part. -/
def State.withFetchWord (s : State) (_nbits w : Nat) : State := storeAtFetch s (BitVec.ofNat 10 w)

end Sys2Proof.Machine
end

