-- ==== Sys2Proof/Machine/HostOps.lean ====
section
/-!
DEFINITION. Machine/HostOps.lean: the host operations (spec/45_control_and_tick.md R295 to R299).  The host calls them
between ticks, never during one; they are the only inputs of the core (R49, R350).
-/

namespace Sys2Proof.Machine

/-- `reset(processor)` (R295, R370): every state item at its reset value; no parameter and no ROM word changes. -/
def hostReset (s : State) : State := State.initial s.params s.rom

/-- `set_key(processor, keycode, down)` (R296). -/
def setKey (code : Nat) (down : Bool) (s : State) : Result :=
  if code > 255 then .refused .keycodeTooWide
  else .next { s with
    keycode := BitVec.ofNat 8 code
    keydown := down
    status := if down then s.status ||| bitMask 15 else s.status }

/-- `set_trace(processor, b)` (R297). -/
def setTrace (b : Bool) (s : State) : State := { s with trace := b }

/-- `BANKS <- bank_count`, `DATA_REGISTERS <- memory_count` (R298). -/
def withCounts (P : Params) (bankCount memoryCount : Nat) : Params :=
  { P with banks := bankCount, dataRegisters := memoryCount }

/-- `new_processor(rom, bank_count, memory_count)` (R298, R60), the other parameters being those of `P`: a fresh
processor at reset, or a refusal of a malformed image. -/
def newProcessor (P : Params) (image : List (BitVec 16)) (bankCount memoryCount : Nat) : Result :=
  let Q := withCounts P bankCount memoryCount
  if ¬ Q.wf then .refused .parametersOutOfRange
  else if image.length < romWords Q then .refused .romImageTooShort
  else if image.any fun c => decide (1024 ≤ c.toNat) then .refused .romCellTooWide
  else .next (State.initial Q (Memory.ofCells 0 (image.take (romWords Q))))

/-- The calls a host makes on a processor (R299). -/
inductive Call where
  | tick
  | reset
  | setKey (code : Nat) (down : Bool)
  | setTrace (b : Bool)
  deriving DecidableEq, Repr

/-- One call of the host (R299).  A fault or a refusal leaves the state as it was (R344, R296): the outcome has none. -/
def call (c : Call) (s : State) : Result :=
  match c with
  | .tick => step s
  | .reset => .next (hostReset s)
  | .setKey code down => setKey code down s
  | .setTrace b => .next (setTrace b s)

end Sys2Proof.Machine
end

