-- ==== Sys2Proof/Safety.lean ====
section
/-!
DEFINITION. Safety.lean: the terms the claims are stated in: the invariant of the machine, the value of a field, the
state an instruction leaves when it goes on to the next word, and which operation an instruction is.
-/

namespace Sys2Proof.Machine

/-! ### The invariant -/

/-- No listed ROM cell lies at or above `n`. -/
def Memory.inside (m : Memory) (n : Nat) : Prop := ∀ c ∈ m, c.1 < n

/-- What holds of every state between two calls of the host: the ranges spec/10_state.md gives the state items
(R26, R28, R30, R31, R34), CARRY at 0 (R37), MODE at 1 (R39), TIMER at 0 (R40), the parameters in range (R6) and the ROM
image in canonical form and inside its window (R60). -/
structure State.Inv (s : State) : Prop where
  params : s.params.wf
  romWf : s.rom.wf = true
  romInside : s.rom.inside (romWords s.params)
  ramLength : s.ram.length = s.params.dataRegisters
  stackLength : s.stack.length = s.params.stackSize
  stackRange : ∀ v ∈ s.stack, v.toNat < s.params.romSize
  spRange : s.sp < s.params.stackSize
  pcRange : s.pc.toNat < s.params.romSize
  bankRange : s.romBank < s.params.banks
  pRange : s.p ≤ 14
  windowOrder : s.first ≤ s.last
  windowRange : s.last ≤ 13
  carryClear : s.carry = false
  modeRun : s.mode = true
  timerOff : s.timer = false

/-- The state after one call of the host: what the call answers, or the state as it was when it faults or is refused
(R344, R296). -/
def afterCall (s : State) (c : Call) : State :=
  match call c s with
  | .next t => t
  | _ => s

/-- The state after a sequence of calls of the host (R299). -/
def afterCalls (s : State) (cs : List Call) : State := cs.foldl afterCall s

/-! ### Fields as numbers -/

/-- The `k` digits of a register from nibble `first` up, read as a number in base `b` (R134). -/
def digitsValue (b : Nat) (r : Reg) (first : Nat) : Nat → Nat
  | 0 => 0
  | k + 1 => digitsValue b r first k + (r.nib (first + k)).toNat * b ^ k

/-- `V(x)`, the field of a register as a number in base `b` (R134). -/
def fieldValue (b : Nat) (w : Window) (r : Reg) : Nat := digitsValue b r w.first w.width

/-- Every nibble of the field is below the base (R134). -/
def ValidField (base : Radix) (w : Window) (r : Reg) : Prop :=
  ∀ k, w.first ≤ k → k ≤ w.last → (r.nib k).toNat < base.toNat

/-- Every nibble of all eight registers is below the base (R22). -/
def ValidDigits (s : State) : Prop := ∀ X k, k < 14 → ((s.getReg X).nib k).toNat < s.base.toNat

/-- Two registers agree on every nibble outside a field (R10). -/
def SameOutside (w : Window) (old new : Reg) : Prop :=
  ∀ k, k < 14 → ¬ (w.first ≤ k ∧ k ≤ w.last) → new.nib k = old.nib k

/-- `r` holds, over the field, the digit-serial sum of `x` and `y` with the carries `c` (R125): the carry into nibble
`first` is `cin`, each nibble's sum that reaches the base wraps and carries, and nibbles outside keep `old`. -/
structure SerialSum (P : Params) (base : Radix) (w : Window) (x y : Reg) (cin : Bool) (c : Nat → Bool) (old r : Reg) :
    Prop where
  carryIn : c w.first = cin
  carries : ∀ k, w.first ≤ k → k ≤ w.last →
    (c (k + 1) = true ↔ base.toNat ≤ (x.nib k).toNat + (y.nib k).toNat + (c k).toNat)
  digits : ∀ k, w.first ≤ k → k ≤ w.last →
    r.nib k = if c (k + 1) then digitAdjustAdd P base ((x.nib k).toNat + (y.nib k).toNat + (c k).toNat)
      else BitVec.ofNat 4 ((x.nib k).toNat + (y.nib k).toNat + (c k).toNat)
  outside : SameOutside w old r

/-- `r` holds, over the field, the digit-serial difference of `x` and `y` with the borrows `c` (R127). -/
structure SerialDifference (P : Params) (base : Radix) (w : Window) (x y : Reg) (cin : Bool) (c : Nat → Bool)
    (old r : Reg) : Prop where
  borrowIn : c w.first = cin
  borrows : ∀ k, w.first ≤ k → k ≤ w.last →
    (c (k + 1) = true ↔ (x.nib k).toNat < (y.nib k).toNat + (c k).toNat)
  digits : ∀ k, w.first ≤ k → k ≤ w.last →
    r.nib k = if c (k + 1) then digitAdjustSub P base ((y.nib k).toNat + (c k).toNat - (x.nib k).toNat)
      else BitVec.ofNat 4 ((x.nib k).toNat - ((y.nib k).toNat + (c k).toNat))
  outside : SameOutside w old r

/-! ### The state an instruction leaves -/

/-- `s` after an instruction that goes on to the next word and leaves `c` in CARRY: the pc one on, modulo `ROM_SIZE`,
`c` latched into PREV_CARRY, CARRY 0 (R272), and nothing else changed. -/
def afterSeq (s : State) (c : Bool) : State :=
  { s with pc := BitVec.ofNat 12 ((s.pc.toNat + 1) % s.params.romSize), prevCarry := c, carry := false }

/-- `afterSeq` with the field window set as well (R34). -/
def afterField (s : State) (w : Window) (c : Bool) : State := { afterSeq s c with first := w.first, last := w.last }

/-- `s` after an instruction that goes to `target` (R272): CARRY latched and cleared, nothing else changed. -/
def afterJump (s : State) (target : Pc) : State := { s with pc := target, prevCarry := s.carry, carry := false }

/-! ### Which operation an instruction is -/

/-- The instruction is one of these arithmetic operations, with whatever field. -/
def isArith (i : Instr) (ops : List ArithOp) : Bool :=
  match i.format with
  | .arith op _ => ops.contains op
  | _ => false

/-- The instruction is one of these special operations, with whatever operand. -/
def isSpecial (i : Instr) (ops : List SpecialOp) : Bool :=
  match i.format with
  | .special op _ => ops.contains op
  | _ => false

/-- The field modifier of an arithmetic instruction. -/
def fieldMod? (i : Instr) : Option FieldMod :=
  match i.format with
  | .arith _ fs => some fs
  | _ => none

/-- The instruction is `jsb` or `if nc goto`. -/
def isBranch (i : Instr) : Bool :=
  match i.format with
  | .jsb _ => true
  | .branch _ => true
  | _ => false

end Sys2Proof.Machine
end

