-- ==== Sys2Proof/Certificates/Slice0/Obligations.lean ====
section
/-!
DEFINITION. Certificates/Slice0/Obligations.lean: the statements for the provers.

Every statement of an instruction's result has as its conclusion that `exec` answers a next state and gives that state
as an update of the state before, so every field the update does not name is unchanged: the registers, the data
registers, the ROM image, the stack and the flags are framed by the equation itself.
-/

open Sys2Proof Sys2Proof.Machine

/-! ### Encoding -/

/-- Decoding an encoded instruction gives it back, for every opcode map the decoder reads without ambiguity and for
both values of CLASS11_STRICT (R82 to R90, R95, R101). -/
def Obligations.DecodeOfEncodeIsIdentity : Prop :=
  ∀ P : Params, P.opcodeMap.wf → ∀ (i : Instr) (w : Word), encode P i = some w → decode P w = .ok i

/-- With the default parameters every well-formed instruction has a word, and the word decodes to it (R93, R101). It
rests on the default opcode map, log entry 3, and decision D27. -/
def Obligations.EveryWellFormedInstructionHasADefaultWord : Prop :=
  ∀ i : Instr, i.WellFormed = true → ∃ w, encode Params.default i = some w ∧ decode Params.default w = .ok i

/-- What the decoder answers is well formed and can be encoded again, for every unambiguous opcode map. -/
def Obligations.DecodedInstructionIsWellFormedAndReencodes : Prop :=
  ∀ (P : Params) (w : Word) (i : Instr), P.opcodeMap.wf → decode P w = .ok i →
    i.WellFormed = true ∧ ∃ w', encode P i = some w' ∧ decode P w' = .ok i

/-- The P-set and P-test tables, entry by entry, and which values they hold; in every word, and for every opcode map, the
instruction that names a value names the entry at `k = w[9:6]`: `p = n` of PSET, `if p = n` and `if p # n` of PTEST (R91,
R92). -/
def Obligations.PointerTablesHoldTheirPrintedEntries : Prop :=
  ((List.range 16).map (fun k => pSet (BitVec.ofNat 4 k)) = [14, 4, 7, 8, 11, 2, 10, 12, 1, 3, 13, 6, 0, 9, 5, 14]) ∧
  ((List.range 16).map (fun k => pTest (BitVec.ofNat 4 k)) = [4, 8, 12, 2, 9, 1, 6, 3, 1, 13, 5, 0, 11, 10, 7, 4]) ∧
  (∀ n, (∃ k, pSet k = n) ↔ n ≤ 14) ∧ (∀ n, (∃ k, pTest k = n) ↔ n ≤ 13) ∧
  (∀ k, pSet k = 14 ↔ k = 0 ∨ k = 15) ∧ (∀ k, pTest k = 1 ↔ k = 5 ∨ k = 8) ∧ (∀ k, pTest k = 4 ↔ k = 0 ∨ k = 15) ∧
  (∀ (P : Params) (w : Word) (n : Nat),
    (decode P w = .ok (.setP n) → n = pSet (w.extractLsb' 6 4)) ∧
    (decode P w = .ok (.ifPEq n) → n = pTest (w.extractLsb' 6 4)) ∧
    (decode P w = .ok (.ifPNe n) → n = pTest (w.extractLsb' 6 4)))

/-- The illegal words of the default map, by group (R97): the words of group 0 outside R87's table, word 0x348 and the
words of group 2 with `sub` 10 or 11; no word of another class or group. It rests on the default opcode map, log
entry 3. -/
def Obligations.IllegalWordsOfTheDefaultMap : Prop :=
  ∀ w : Word, decode Params.default w = .error .illegalOpcode ↔
    w.extractLsb' 0 2 = 0 ∧
      ((w.extractLsb' 2 2 = 0 ∧ w.extractLsb' 4 2 ≠ 2 ∧
          w ∉ [0x000#10, 0x010#10, 0x050#10, 0x070#10, 0x080#10, 0x090#10, 0x270#10, 0x2B0#10, 0x3F0#10]) ∨
        (w.extractLsb' 2 2 = 2 ∧ (w = 0x348#10 ∨ w.extractLsb' 4 2 = 2 ∨ w.extractLsb' 4 2 = 3)))

/-- Classes 01, 11 and 00 (class 10 is in FieldWindowsAreAsTabulated).  Class 01 is `jsb` with the offset `w[9:2]` (R83).
Class 11 is `if nc goto` with the offset `w[9:2]`, but that under CLASS11_STRICT a word whose bits 3:2 are not 11 is
rejected under its own name (R84).  Class 00, for an unambiguous map: a word whose `g = w[3:2]`, `sub = w[5:4]` and
`k = w[9:6]` meet a row decodes to that row's operation with operand `k`, and a word that meets no row is illegal (R85,
R95); a number an instruction takes from its word is `w[9:6]` (R94).  It rests on the spec's own decisions D5, D6, D24, and
on log entry 3 for the split of a special word. -/
def Obligations.BranchAndSpecialWordsDecodeTheirFields : Prop :=
  ∀ (P : Params) (w : Word),
    (w.extractLsb' 0 2 = 1 → decode P w = .ok (.jsb (w.extractLsb' 2 8))) ∧
    (w.extractLsb' 0 2 = 3 → P.class11Strict = true → w.extractLsb' 2 2 ≠ 3 →
      decode P w = .error .class11Subclass) ∧
    (w.extractLsb' 0 2 = 3 → (P.class11Strict = false ∨ w.extractLsb' 2 2 = 3) →
      decode P w = .ok (.ifNcGoto (w.extractLsb' 2 8))) ∧
    (P.opcodeMap.wf → w.extractLsb' 0 2 = 0 → ∀ r ∈ P.opcodeMap.special,
      r.g = w.extractLsb' 2 2 → r.sub = w.extractLsb' 4 2 → (r.k = none ∨ r.k = some (w.extractLsb' 6 4)) →
      decode P w = .ok (r.op.toInstr (w.extractLsb' 6 4))) ∧
    (w.extractLsb' 0 2 = 0 →
      (∀ r ∈ P.opcodeMap.special,
        ¬ (r.g = w.extractLsb' 2 2 ∧ r.sub = w.extractLsb' 4 2 ∧ (r.k = none ∨ r.k = some (w.extractLsb' 6 4)))) →
      decode P w = .error .illegalOpcode) ∧
    (∀ e ∈ [Instr.selectRom, .setS, .ifS1, .delayedSelectRom, .loadN, .resetS, .ifS0], ∀ n,
      decode P w = .ok (e n) → n = w.extractLsb' 6 4)

/-- With the default map every row of R86 to R90 decodes to the instruction the spec prints beside it: the 32 arithmetic
operations by `op`, with every field modifier; the 24 special words without an operand, bit by bit; the ten special forms
with every `k`; and nine words of spec/95_test_vectors.md, E1 to E4 and E6 to E10 (E14 is among the 24; E5 and E11 to E13
are in the statements on class 11 and on the illegal words).  It rests on the default opcode map, log entry 3. -/
def Obligations.WrittenOutWordsDecode : Prop :=
  (∀ b : BitVec 3, ∀ e ∈ [
      (0b00000#5, Instr.zeroA), (0b00001, .zeroB), (0b00010, .exchAB), (0b00011, .copyAB), (0b00100, .exchAC),
      (0b00101, .copyCA), (0b00110, .copyBC), (0b00111, .exchBC), (0b01000, .zeroC), (0b01001, .addABA),
      (0b01010, .addACA), (0b01011, .addCCC), (0b01100, .addACC), (0b01101, .incA), (0b01110, .shlA),
      (0b01111, .incC), (0b10000, .subABA), (0b10001, .subACC), (0b10010, .decA), (0b10011, .decC),
      (0b10100, .negC), (0b10101, .complC), (0b10110, .ifBZero), (0b10111, .ifCZero), (0b11000, .ifAGeC),
      (0b11001, .ifAGeB), (0b11010, .ifANonzero), (0b11011, .ifCNonzero), (0b11100, .subACA), (0b11101, .shrA),
      (0b11110, .shrB), (0b11111, .shrC)],
    decode Params.default (e.1 ++ b ++ 0b10#2) = .ok (e.2 (FieldMod.ofBits b))) ∧
  (∀ e ∈ [
      (0b0000000000#10, Instr.nop), (0b0000010000, .keysToRom), (0b0001010000, .binary), (0b0001110000, .decP),
      (0b0010000000, .incP), (0b0010010000, .ret), (0b1001110000, .cToDataAddress),
      (0b1010110000, .clearDataRegisters), (0b1111110000, .woodstock), (0b0000001000, .clearRegisters),
      (0b0001001000, .clearS), (0b0010001000, .displayToggle), (0b0011001000, .displayOff),
      (0b0100001000, .m1ExchC), (0b0101001000, .m1ToC), (0b0110001000, .m2ExchC), (0b0111001000, .m2ToC),
      (0b1000001000, .stackToA), (0b1001001000, .downRotate), (0b1010001000, .yToA), (0b1011001000, .cToStack),
      (0b1100001000, .decimal), (0b1110001000, .fToA), (0b1111001000, .fExchA)],
    decode Params.default e.1 = .ok e.2) ∧
  (∀ k : BitVec 4,
    (∀ e ∈ [
        (0b100000#6, Instr.selectRom), (0b000100, .setS), (0b010100, .ifS1), (0b110100, .delayedSelectRom),
        (0b011000, .loadN), (0b001100, .resetS), (0b011100, .ifS0)],
      decode Params.default (k ++ e.1) = .ok (e.2 k)) ∧
    decode Params.default (k ++ 0b100100#6) = .ok (.ifPEq (pTest k)) ∧
    decode Params.default (k ++ 0b101100#6) = .ok (.ifPNe (pTest k)) ∧
    decode Params.default (k ++ 0b111100#6) = .ok (.setP (pSet k))) ∧
  (∀ e ∈ [(0b0000000000#10, Instr.nop), (0b0111111010#10, .incC .w), (0b0100001001#10, .jsb 0x42),
      (0b0010001111#10, .ifNcGoto 0x23), (0b0010110100#10, .delayedSelectRom 2), (0b1100111100#10, .setP 0),
      (0b0010100100#10, .ifPEq 12), (0b1001011000#10, .loadN 9), (0b0011100000#10, .selectRom 3)],
    decode Params.default e.1 = .ok e.2)

/-! ### The tick -/

/-- A tick whose fetch is inside the ROM and whose word decodes to `i` is the execution of `i` in the same state; moving
past the word is part of that execution, and the tick adds nothing (R270). It rests on the spec's own decisions D7,
D29. -/
def Obligations.StepRunsTheDecodedInstruction : Prop :=
  ∀ (s : State) (i : Instr), fetchAddress s < romWords s.params → decode s.params (fetchedWord s) = .ok i →
    step s = exec i s

/-- A word the decoder rejects makes the tick a DecoderFault with the triple of R345: cause 2 for a strict class-11
word, else cause 1 (R341). It rests on the spec's own decisions D5, D7, D28. -/
def Obligations.RejectedWordIsADecoderFault : Prop :=
  ∀ (s : State) (e : DecodeError), fetchAddress s < romWords s.params →
    decode s.params (fetchedWord s) = .error e →
    ∃ f, step s = .fault f ∧ f.kind = 1 ∧ f.cause = (if e = .class11Subclass then 2 else 1) ∧
      f.record = ⟨s.romBank, s.pc, fetchedWord s⟩

/-- A fetch outside the ROM is AddressFault cause 1 with opcode 0 (R343, R345); in a state that meets the invariant no
fetch is outside the ROM (R63), and with banks of 4096 words no tick is an AddressFault at all (R343). It rests on
the spec's own decisions D1, D11, D28. -/
def Obligations.FetchOutsideRomFaultsAndNeverHappens : Prop :=
  (∀ s : State, romWords s.params ≤ fetchAddress s →
    ∃ f, step s = .fault f ∧ f.kind = 2 ∧ f.cause = 1 ∧ f.record = ⟨s.romBank, s.pc, 0⟩) ∧
  (∀ s : State, s.Inv → fetchAddress s < romWords s.params) ∧
  (∀ (s : State) (f : Fault), s.Inv → s.params.romSize = 4096 → step s = .fault f → f.kind = 1)

/-- What every fault of a tick reports: the bank and pc of the tick, and the word it fetched, or 0 where it fetched none
(R345). It rests on the spec's own decisions D7, D28, log entry 9. -/
def Obligations.FaultRecordNamesTheOffendingWord : Prop :=
  ∀ (s : State) (f : Fault), step s = .fault f →
    f.record.bank = s.romBank ∧ f.record.pc = s.pc ∧
      f.record.opcode = (if fetchAddress s < romWords s.params then fetchedWord s else 0)

/-- When an instruction faults, with which kind and cause, and what the record names (R340, R342 to R346): an arithmetic
word with field P or WP and `load n` when `p ≥ 14`, `select rom n` to a page outside the bank, `jsb` and a taken `if
nc goto` to a target outside the bank; no other instruction, and not otherwise. It rests on the spec's own decisions
D21, D28, D29, log entry 9. -/
def Obligations.InstructionFaultsExactlyAsListed : Prop :=
  ∀ (i : Instr) (s : State),
    ((∃ f, exec i s = .fault f ∧ f.kind = 1 ∧ f.cause = 3) ↔
      ((fieldMod? i = some .p ∨ fieldMod? i = some .wp) ∧ 14 ≤ s.p)) ∧
    ((∃ f, exec i s = .fault f ∧ f.kind = 1 ∧ f.cause = 4) ↔ (∃ n, i = .loadN n) ∧ 14 ≤ s.p) ∧
    ((∃ f, exec i s = .fault f ∧ f.kind = 2 ∧ f.cause = 2) ↔
      ∃ n, i = .selectRom n ∧ s.params.romSize ≤ n.toNat * 256 + s.pc.toNat % 256) ∧
    ((∃ f, exec i s = .fault f ∧ f.kind = 2 ∧ f.cause = 3) ↔
      ∃ t, (i = .jsb t ∨ (i = .ifNcGoto t ∧ s.prevCarry = false)) ∧
        s.params.romSize ≤ (if s.delayedRom then s.delayedBank.toNat else s.pc.toNat / 256) * 256 + t.toNat) ∧
    (∀ f, exec i s = .fault f → f.record = ⟨s.romBank, s.pc, fetchedWord s⟩ ∧
      ((f.kind = 1 ∧ (f.cause = 3 ∨ f.cause = 4)) ∨ (f.kind = 2 ∧ (f.cause = 2 ∨ f.cause = 3))))

/-- A tick never refuses: its outcomes are the next state and the two fault kinds (R15). It rests on the spec's own
decision D7. -/
def Obligations.TickNeverRefuses : Prop :=
  ∀ (s : State) (r : Refusal), step s ≠ .refused r

/-! ### The invariant -/

/-- Every tick that goes on keeps the invariant: the pc and the stacked addresses stay in the bank, `sp` in the ring,
`p` at most 14, the window in the register, CARRY at 0, the ROM image canonical (R26 to R40, R289). It rests on the
spec's own decisions D1, D20, D22, D34. -/
def Obligations.EveryTickKeepsTheInvariant : Prop :=
  ∀ s t : State, s.Inv → step s = .next t → t.Inv

/-- The machine right after reset meets the invariant (R47, with the default parameters of log entry 1). It rests on the
spec's own decision D20. -/
def Obligations.ResetMeetsTheInvariant : Prop := State.reset.Inv

/-- From a processor that `new_processor` constructed, every sequence of ticks, resets, key events and trace switches,
faulting and refused calls among them, stays inside the invariant (R289, R295 to R299). It rests on the spec's own
decisions D7, D11, D12, D20. -/
def Obligations.EveryRunOfAConstructedProcessorMeetsTheInvariant : Prop :=
  ∀ (P : Params) (image : List (BitVec 16)) (banks regs : Nat) (s : State) (cs : List Call),
    newProcessor P image banks regs = .next s → (afterCalls s cs).Inv

/-- While every nibble of the registers and F are below the base, a tick keeps them so (R22, R32), but for `load n` with `n`
at or above the base and `decimal` while some nibble or F is 10 or more: the spec's condition on the source's digit
invariant (I1).  It rests on the spec's own decision D23. -/
def Obligations.DigitsStayBelowTheBase : Prop :=
  ∀ (s t : State) (i : Instr), s.Inv → ValidDigits s → s.f.toNat < s.base.toNat → exec i s = .next t →
    (∀ n, i = .loadN n → n.toNat < s.base.toNat) →
    (i = .decimal → (∀ X k, k < 14 → ((s.getReg X).nib k).toNat < 10) ∧ s.f.toNat < 10) →
    ValidDigits t ∧ t.f.toNat < t.base.toNat

/-! ### Who writes what -/

/-- No instruction writes ROM (R62), and no tick does: the image a tick leaves is the image it found. -/
def Obligations.NoInstructionWritesTheRom : Prop :=
  (∀ (i : Instr) (s t : State), exec i s = .next t → t.rom = s.rom) ∧ (∀ s t : State, step s = .next t → t.rom = s.rom)

/-- No tick writes a parameter (R46), `rom_bank` (R28), MODE (R39), TIMER (R40), TRACE (R41), `keycode` (R43) or
`keydown` (R44). It rests on the spec's own decisions D2, D19, D22, D34. -/
def Obligations.TickLeavesHostOwnedStateAlone : Prop :=
  ∀ s t : State, step s = .next t →
    t.params = s.params ∧ t.romBank = s.romBank ∧ t.mode = s.mode ∧ t.timer = s.timer ∧ t.trace = s.trace ∧
      t.keycode = s.keycode ∧ t.keydown = s.keydown

/-- The advance (R272, R273): an instruction ends by latching into PREV_CARRY the CARRY its operation left, and clearing
CARRY, whether it goes on or jumps.  So after every instruction CARRY is 0; one that writes no CARRY latches the CARRY it
found, and a shift latches 0.  The next pc is the sequential one, modulo ROM_SIZE, unless the instruction is one of the
transfers of R275: `jsb`, `if nc goto` with PREV_CARRY 0, `return`, `keys -> rom address`, `select rom n`.  It rests on the
spec's own decisions D1, D3, D33. -/
def Obligations.EveryTickLatchesAndAdvancesOnce : Prop :=
  (∀ u : State, finish u = .next (afterSeq u u.carry)) ∧
  (∀ (target : Pc) (u : State), finishAt target u = .next (afterJump u target)) ∧
  (∀ (fs : FieldMod) (op : Window → State → State) (s : State) (w : Window), window fs s.p = some w →
    arithmetic fs op s = .next (afterSeq (op w (s.setWindow w)) (op w (s.setWindow w)).carry)) ∧
  ∀ (s t : State) (i : Instr), exec i s = .next t →
    t.carry = false ∧
    (isArith i [.addABA, .addACA, .addCCC, .addACC, .incA, .incC, .subABA, .subACC, .subACA, .decA, .decC, .negC,
        .complC, .ifAGeC, .ifAGeB, .ifBZero, .ifCZero, .ifANonzero, .ifCNonzero, .shrA, .shrB, .shrC, .shlA] = false →
      isSpecial i [.ifS1, .ifS0, .ifPEq, .ifPNe] = false → t.prevCarry = s.carry) ∧
    (isArith i [.shrA, .shrB, .shrC, .shlA] = true → t.prevCarry = false) ∧
    (s.params.wf → (∀ L, i ≠ .jsb L) → (∀ L, i = .ifNcGoto L → s.prevCarry = true) →
      isSpecial i [.ret, .keysToRom, .selectRom] = false → t.pc.toNat = (s.pc.toNat + 1) % s.params.romSize)

/-- In a state with CARRY 0, PREV_CARRY is 0 after every instruction but the adds, subtracts, comparisons and tests
(R377). It rests on the spec's own decision D33. -/
def Obligations.OnlyArithmeticAndTestsLeaveCarry : Prop :=
  ∀ (s t : State) (i : Instr), s.carry = false → exec i s = .next t →
    isArith i [.addABA, .addACA, .addCCC, .addACC, .incA, .incC, .subABA, .subACC, .subACA, .decA, .decC, .negC,
      .complC, .ifAGeC, .ifAGeB, .ifBZero, .ifCZero, .ifANonzero, .ifCNonzero] = false →
    isSpecial i [.ifS1, .ifS0, .ifPEq, .ifPNe] = false → t.prevCarry = false

/-- Which instructions may write each of the eight registers (R23). It rests on the spec's own decisions D15, D16, D17.
-/
def Obligations.RegisterWritersAreAsTabulated : Prop :=
  ∀ (s t : State) (i : Instr), exec i s = .next t →
    (isArith i [.zeroA, .exchAB, .exchAC, .copyCA, .addABA, .addACA, .incA, .subABA, .decA, .subACA, .shrA,
        .shlA] = false →
      isSpecial i [.stackToA, .yToA, .fToA, .fExchA, .clearRegisters] = false → t.regA = s.regA) ∧
    (isArith i [.zeroB, .copyAB, .exchAB, .exchBC, .shrB] = false → isSpecial i [.clearRegisters] = false →
      t.regB = s.regB) ∧
    (isArith i [.zeroC, .exchAC, .copyBC, .exchBC, .addCCC, .addACC, .incC, .subACC, .decC, .negC, .complC,
        .shrC] = false →
      isSpecial i [.m1ToC, .m2ToC, .m1ExchC, .m2ExchC, .downRotate, .loadN, .clearRegisters] = false →
      t.regC = s.regC) ∧
    (isSpecial i [.stackToA, .downRotate, .cToStack, .clearRegisters] = false → t.regY = s.regY ∧ t.regZ = s.regZ) ∧
    (isSpecial i [.downRotate, .cToStack, .clearRegisters] = false → t.regT = s.regT) ∧
    (isSpecial i [.m1ExchC, .clearRegisters] = false → t.regM = s.regM) ∧
    (isSpecial i [.m2ExchC, .clearRegisters] = false → t.regN = s.regN)

/-- Which instructions may write the pointer, F, the base, the status word, the display flag, the address latch and the
data registers (R25, R31 to R36, R45). It rests on the spec's own decisions D8, D12, D18, D21. -/
def Obligations.SpecialStateWritersAreAsListed : Prop :=
  ∀ (s t : State) (i : Instr), exec i s = .next t →
    (isSpecial i [.decP, .incP, .setP, .loadN] = false → t.p = s.p) ∧
    (isSpecial i [.fExchA] = false → t.f = s.f) ∧
    (isSpecial i [.binary, .decimal] = false → t.base = s.base) ∧
    (isSpecial i [.setS, .resetS, .clearS] = false → t.status = s.status) ∧
    (isSpecial i [.displayToggle, .displayOff] = false → t.displayEnable = s.displayEnable) ∧
    (isSpecial i [.cToDataAddress] = false → t.address = s.address) ∧
    (isSpecial i [.clearDataRegisters] = false → t.ram = s.ram)

/-- Only `jsb` pushes and only `return` pops (R30, R285, R286); only `delayed select rom n` makes a selection pending,
and only `jsb` and `if nc goto` end one (R281). It rests on the spec's own decisions D13, D14, D26. -/
def Obligations.StackAndSelectionWritersAreAsListed : Prop :=
  ∀ (s t : State) (i : Instr), exec i s = .next t →
    ((∀ L, i ≠ .jsb L) → t.stack = s.stack) ∧
    ((∀ L, i ≠ .jsb L) → i ≠ .ret → t.sp = s.sp) ∧
    (isSpecial i [.delayedSelectRom] = false → t.delayedBank = s.delayedBank ∧ (t.delayedRom = true → s.delayedRom = true)) ∧
    (isBranch i = false → s.delayedRom = true → t.delayedRom = true)

/-- While a key is held and `ZERO_S_STICKY` holds bit 15, no tick clears the key bit `s(15)` (R221, R226, R241). It
rests on the spec's own decisions D8, D19. -/
def Obligations.HeldKeyKeepsStatusBit15 : Prop :=
  ∀ s t : State, s.params.zeroSSticky.getLsbD 15 = true → s.keydown = true → s.status.getLsbD 15 = true →
    step s = .next t → t.status.getLsbD 15 = true ∧ t.keydown = true

/-! ### Field windows -/

/-- Arithmetic words and their windows (R82, R96): a class-10 word is the operation `w[9:5]` with the field modifier
`w[4:2]`; P and WP have a window exactly when `p ≤ 13`, no other modifier reads `p`; where there is no window the
instruction raises a DecoderFault, and where there is one `first` and `last` end as it says. -/
def Obligations.FieldWindowsAreAsTabulated : Prop :=
  (∀ (P : Params) (w : Word), P.opcodeMap.wf → w.extractLsb' 0 2 = 2 →
    ∃ op, P.opcodeMap.arith[(w.extractLsb' 5 5).toNat]? = some op ∧
      decode P w = .ok (op.toInstr (FieldMod.ofBits (w.extractLsb' 2 3)))) ∧
  ((List.range 8).map (fun k => FieldMod.ofBits (BitVec.ofNat 3 k)) = [.p, .wp, .xs, .x, .s, .m, .w, .ms]) ∧
  (∀ p, p ≤ 13 → window .p p = some ⟨p, p⟩ ∧ window .wp p = some ⟨0, p⟩) ∧
  (∀ p, 13 < p → window .p p = none ∧ window .wp p = none) ∧
  (∀ p, window .xs p = some ⟨2, 2⟩ ∧ window .x p = some ⟨0, 1⟩ ∧ window .s p = some ⟨13, 13⟩ ∧
    window .m p = some ⟨3, 12⟩ ∧ window .w p = some ⟨0, 13⟩ ∧ window .ms p = some ⟨3, 13⟩) ∧
  (∀ (i : Instr) (fs : FieldMod) (s : State), fieldMod? i = some fs →
    (window fs s.p = none → ∃ f, exec i s = .fault f ∧ f.kind = 1) ∧
    (∀ w, window fs s.p = some w → ∃ t, exec i s = .next t ∧ t.first = w.first ∧ t.last = w.last))

/-- The copy, test and right-shift primitives over any field inside a register (R122, R129, R130, R131): what each does
to every nibble of its destination and to CARRY, and that nothing else changes. -/
def Obligations.CopyTestAndShiftPrimitivesAreAsWritten : Prop :=
  ∀ (w : Window) (s : State), w.first ≤ w.last → w.last ≤ 13 →
    (∀ (dst : RegName) (src : Option RegName), ∃ r : Reg,
      copy w dst src s = s.setReg dst r ∧ SameOutside w (s.getReg dst) r ∧
        ∀ k, w.first ≤ k → k ≤ w.last → r.nib k = match src with
          | some X => (s.getReg X).nib k
          | none => 0) ∧
    (∀ X, copy w X (some X) s = s) ∧
    (∀ x y : Option RegName, ∃ c, testEq w x y s = { s with carry := c } ∧ testNe w x y s = { s with carry := !c } ∧
      (c = false ↔ ∀ k, w.first ≤ k → k ≤ w.last → (s.operand x).nib k = (s.operand y).nib k)) ∧
    (∀ X, ∃ r : Reg, shr w X s = { s.setReg X r with carry := false } ∧ SameOutside w (s.getReg X) r ∧
      r.nib w.last = 0 ∧ ∀ k, w.first ≤ k → k < w.last → r.nib k = (s.getReg X).nib (k + 1))

/-- The add and subtract primitives over any field inside a register (R125, R127), for every nibble value, base,
DIGIT_ADJUST and carry in, with the destination present or absent: the digits, the carry from nibble to nibble, the
final carry in CARRY, and nothing else changed. -/
def Obligations.AddAndSubtractPrimitivesAreDigitSerial : Prop :=
  ∀ (w : Window) (dst x y : Option RegName) (cin : Bool) (s : State), w.first ≤ w.last → w.last ≤ 13 →
    let write (r : Reg) : State := match dst with
      | some X => s.setReg X r
      | none => s
    let old := match dst with
      | some X => s.getReg X
      | none => Reg.zero
    (∃ (r : Reg) (c : Nat → Bool), add w dst x y cin s = { write r with carry := c (w.last + 1) } ∧
      SerialSum s.params s.base w (s.operand x) (s.operand y) cin c old r) ∧
    (∃ (r : Reg) (c : Nat → Bool), sub w dst x y cin s = { write r with carry := c (w.last + 1) } ∧
      SerialDifference s.params s.base w (s.operand x) (s.operand y) cin c old r)

/-- An arithmetic instruction that goes on sets the window, leaves every nibble outside it unchanged in every register,
and changes nothing else but registers, window, pc and carries (R120, R150). -/
def Obligations.ArithmeticActsOnItsFieldOnly : Prop :=
  ∀ (i : Instr) (fs : FieldMod) (w : Window) (s t : State), fieldMod? i = some fs → window fs s.p = some w →
    exec i s = .next t →
    (∀ X, SameOutside w (s.getReg X) (t.getReg X)) ∧
    t = { s with regA := t.regA, regB := t.regB, regC := t.regC, first := w.first, last := w.last, pc := t.pc,
                 prevCarry := t.prevCarry, carry := t.carry }

/-! ### Copies and exchanges -/

/-- `0 -> a`, `0 -> b`, `0 -> c`, `a -> b`, `c -> a`, `b -> c` complete whenever their window exists: the destination takes
the source's nibbles, or 0, over the field, keeps the others, and no flag is written (R122, R151 to R153, R155, R157,
R158). -/
def Obligations.ZeroingAndCopyingComplete : Prop :=
  ∀ (fs : FieldMod) (s : State) (w : Window), window fs s.p = some w →
    ∀ e ∈ [(Instr.zeroA fs, RegName.A, (none : Option RegName)), (.zeroB fs, .B, none), (.zeroC fs, .C, none),
        (.copyAB fs, .B, some .A), (.copyCA fs, .A, some .C), (.copyBC fs, .C, some .B)],
      ∃ r : Reg, exec e.1 s = .next ((afterField s w s.carry).setReg e.2.1 r) ∧
        SameOutside w (s.getReg e.2.1) r ∧
        ∀ k, w.first ≤ k → k ≤ w.last →
          r.nib k = match e.2.2 with
            | some X => (s.getReg X).nib k
            | none => 0

/-- `a exch b`, `a exch c` and `b exch c` complete whenever their window exists: the two registers swap the nibbles of
the field and keep the others, no flag is written, and the same exchange again is the identity on every register
(R123, R154, R156, R159). It rests on the spec's own decision D33. -/
def Obligations.ExchangesComplete : Prop :=
  ∀ (fs : FieldMod) (s : State) (w : Window), window fs s.p = some w →
    ∀ e ∈ [(Instr.exchAB fs, RegName.A, RegName.B), (.exchAC fs, .A, .C), (.exchBC fs, .B, .C)],
      ∃ x y : Reg, exec e.1 s = .next (((afterField s w s.carry).setReg e.2.1 x).setReg e.2.2 y) ∧
        SameOutside w (s.getReg e.2.1) x ∧ SameOutside w (s.getReg e.2.2) y ∧
        (∀ k, w.first ≤ k → k ≤ w.last →
          x.nib k = (s.getReg e.2.2).nib k ∧ y.nib k = (s.getReg e.2.1).nib k) ∧
        ∀ t u, exec e.1 s = .next t → exec e.1 t = .next u → ∀ X, u.getReg X = s.getReg X

/-! ### Add and subtract -/

/-- The six adds and increments complete whenever their window exists, for every nibble value, base and parameter: the
destination holds the digit-serial sum and the carry out of nibble `last` is latched (R125, R128, R160 to R165). It
rests on the spec's own decisions D33, log entry 10. -/
def Obligations.AddsCompleteDigitBySerialDigit : Prop :=
  ∀ (fs : FieldMod) (s : State) (w : Window), window fs s.p = some w →
    ∀ e ∈ [(Instr.addABA fs, RegName.A, some RegName.A, some RegName.B, false), (.addACA fs, .A, some .A, some .C, false),
        (.addCCC fs, .C, some .C, some .C, false), (.addACC fs, .C, some .A, some .C, false),
        (.incA fs, .A, some .A, none, true), (.incC fs, .C, some .C, none, true)],
      ∃ (r : Reg) (c : Nat → Bool), exec e.1 s = .next ((afterField s w (c (w.last + 1))).setReg e.2.1 r) ∧
        SerialSum s.params s.base w (s.operand e.2.2.1) (s.operand e.2.2.2.1) e.2.2.2.2 c (s.getReg e.2.1) r

/-- The seven subtracts, decrements and complements complete whenever their window exists, for every nibble value, base
and parameter: the destination holds the digit-serial difference and the borrow out of nibble `last` is latched
(R127, R128, R166 to R172). It rests on the spec's own decisions D33, log entry 10. -/
def Obligations.SubtractsCompleteDigitBySerialDigit : Prop :=
  ∀ (fs : FieldMod) (s : State) (w : Window), window fs s.p = some w →
    ∀ e ∈ [(Instr.subABA fs, RegName.A, some RegName.A, some RegName.B, false), (.subACC fs, .C, some .A, some .C, false),
        (.subACA fs, .A, some .A, some .C, false), (.decA fs, .A, some .A, none, true),
        (.decC fs, .C, some .C, none, true), (.negC fs, .C, none, some .C, false), (.complC fs, .C, none, some .C, true)],
      ∃ (r : Reg) (c : Nat → Bool), exec e.1 s = .next ((afterField s w (c (w.last + 1))).setReg e.2.1 r) ∧
        SerialDifference s.params s.base w (s.operand e.2.2.1) (s.operand e.2.2.2.1) e.2.2.2.2 c (s.getReg e.2.1) r

/-- The add law (R134): on valid digits the field of the result is the sum modulo `base^L`, its digits are valid, and
CARRY is 1 exactly when the sum reaches `base^L`. -/
def Obligations.AddIsAdditionModuloTheField : Prop :=
  ∀ (s : State) (w : Window) (X : RegName) (x y : Option RegName) (cin : Bool), w.first ≤ w.last → w.last ≤ 13 →
    ValidField s.base w (s.operand x) → ValidField s.base w (s.operand y) →
    let b := s.base.toNat
    let t := add w (some X) x y cin s
    let sum := fieldValue b w (s.operand x) + fieldValue b w (s.operand y) + cin.toNat
    fieldValue b w (t.getReg X) = sum % b ^ w.width ∧ (t.carry = true ↔ b ^ w.width ≤ sum) ∧
      ValidField s.base w (t.getReg X)

/-- The subtract law (R134): on valid digits the field of the result is the difference modulo `base^L`, its digits are
valid, and CARRY is 1 exactly when the minuend is less than the subtrahend and the borrow in together. -/
def Obligations.SubtractIsSubtractionModuloTheField : Prop :=
  ∀ (s : State) (w : Window) (X : RegName) (x y : Option RegName) (cin : Bool), w.first ≤ w.last → w.last ≤ 13 →
    ValidField s.base w (s.operand x) → ValidField s.base w (s.operand y) →
    let b := s.base.toNat
    let t := sub w (some X) x y cin s
    ((fieldValue b w (t.getReg X) : Int) =
        ((fieldValue b w (s.operand x) : Int) - fieldValue b w (s.operand y) - cin.toNat) % (b ^ w.width : Nat)) ∧
      (t.carry = true ↔ fieldValue b w (s.operand x) < fieldValue b w (s.operand y) + cin.toNat) ∧
      ValidField s.base w (t.getReg X)

/-- The two source invariants of R135: adding the absent operand with carry 0 is the identity with CARRY 0 on valid
digits, and subtracting a register from itself gives 0 in the field with CARRY 0 on every nibble value. -/
def Obligations.AddZeroAndSubtractSelf : Prop :=
  ∀ (s : State) (w : Window) (X : RegName), w.first ≤ w.last → w.last ≤ 13 →
    (ValidField s.base w (s.getReg X) → add w (some X) (some X) none false s = { s with carry := false }) ∧
    (∃ r, sub w (some X) (some X) (some X) false s = { s.setReg X r with carry := false } ∧
      SameOutside w (s.getReg X) r ∧ ∀ k, w.first ≤ k → k ≤ w.last → r.nib k = 0)

/-- The default digit adjustment (R126): `(s - base) mod 16` and `(d + base) mod 16`; and whatever table replaces it,
the digits the source fixes stay: sums up to 19 and differences down to -10 in decimal, and all of base 16. It rests
on the spec's own decisions D9, log entry 6. -/
def Obligations.DigitAdjustmentIsTheDefaultWhereTheSourceFixesIt : Prop :=
  ∀ (P : Params) (base : Radix),
    (∀ sum, base.toNat ≤ sum → sum ≤ 31 → (P.digitAdjust = .mod16 ∨ base = .binary ∨ sum ≤ 19) →
      (digitAdjustAdd P base sum).toNat = (sum - base.toNat) % 16) ∧
    (∀ m : Nat, 1 ≤ m → m ≤ 16 → (P.digitAdjust = .mod16 ∨ base = .binary ∨ m ≤ 10) →
      ((digitAdjustSub P base m).toNat : Int) = ((base.toNat : Int) - m) % 16)

/-- When the increments, decrements and complements carry: an increment exactly when every nibble of the field was `base
- 1` (on valid digits, R164, R165), a decrement exactly when the field was all zero (R168, R169), the negation
exactly when it was not (R170), the base-minus-one complement always (R171). It rests on the spec's own decision
D33. -/
def Obligations.CarriesOfIncrementDecrementAndComplement : Prop :=
  ∀ (fs : FieldMod) (s t : State) (w : Window), window fs s.p = some w →
    (exec (.incA fs) s = .next t → ValidField s.base w s.regA →
      (t.prevCarry = true ↔ ∀ k, w.first ≤ k → k ≤ w.last → (s.regA.nib k).toNat = s.base.toNat - 1)) ∧
    (exec (.incC fs) s = .next t → ValidField s.base w s.regC →
      (t.prevCarry = true ↔ ∀ k, w.first ≤ k → k ≤ w.last → (s.regC.nib k).toNat = s.base.toNat - 1)) ∧
    (exec (.decA fs) s = .next t → (t.prevCarry = true ↔ ∀ k, w.first ≤ k → k ≤ w.last → s.regA.nib k = 0)) ∧
    (exec (.decC fs) s = .next t → (t.prevCarry = true ↔ ∀ k, w.first ≤ k → k ≤ w.last → s.regC.nib k = 0)) ∧
    (exec (.negC fs) s = .next t → (t.prevCarry = false ↔ ∀ k, w.first ≤ k → k ≤ w.last → s.regC.nib k = 0)) ∧
    (exec (.complC fs) s = .next t → t.prevCarry = true)

/-! ### Tests and shifts -/

/-- `if a >= c` and `if a >= b` complete whenever their window exists, write no register and latch the borrow:
PREV_CARRY 0 exactly when the field of A, read as a digit string, is at least the other's, for every nibble value
(R175, R176). It rests on the spec's own decision D31. -/
def Obligations.ComparisonsComplete : Prop :=
  ∀ (fs : FieldMod) (s : State) (w : Window), window fs s.p = some w →
    ∀ e ∈ [(Instr.ifAGeC fs, s.regC), (.ifAGeB fs, s.regB)],
      ∃ c, exec e.1 s = .next (afterField s w c) ∧ (c = false ↔ fieldValue 16 w e.2 ≤ fieldValue 16 w s.regA)

/-- The four zero tests complete whenever their window exists, write no register and latch their verdict, 0 meaning
"branch" (R129, R130, R173, R174, R177, R178). -/
def Obligations.ZeroTestsComplete : Prop :=
  ∀ (fs : FieldMod) (s : State) (w : Window), window fs s.p = some w →
    (∀ e ∈ [(Instr.ifBZero fs, s.regB), (.ifCZero fs, s.regC)],
      ∃ c, exec e.1 s = .next (afterField s w c) ∧ (c = false ↔ ∀ k, w.first ≤ k → k ≤ w.last → e.2.nib k = 0)) ∧
    (∀ e ∈ [(Instr.ifANonzero fs, s.regA), (.ifCNonzero fs, s.regC)],
      ∃ c, exec e.1 s = .next (afterField s w c) ∧ (c = false ↔ ∃ k, w.first ≤ k ∧ k ≤ w.last ∧ e.2.nib k ≠ 0))

/-- The four shifts complete whenever their window exists: each nibble of the field takes its neighbour's value, the
vacated nibble becomes 0, nibbles outside do not move, and PREV_CARRY is 0 after the tick (R131, R132, R180 to R183). -/
def Obligations.ShiftsComplete : Prop :=
  ∀ (fs : FieldMod) (s : State) (w : Window), window fs s.p = some w →
    (∀ e ∈ [(Instr.shrA fs, RegName.A), (.shrB fs, .B), (.shrC fs, .C)],
      ∃ r : Reg, exec e.1 s = .next ((afterField s w false).setReg e.2 r) ∧ SameOutside w (s.getReg e.2) r ∧
        r.nib w.last = 0 ∧ ∀ k, w.first ≤ k → k < w.last → r.nib k = (s.getReg e.2).nib (k + 1)) ∧
    (∃ r : Reg, exec (.shlA fs) s = .next ((afterField s w false).setReg .A r) ∧ SameOutside w s.regA r ∧
      r.nib w.first = 0 ∧ ∀ k, w.first < k → k ≤ w.last → r.nib k = s.regA.nib (k - 1))

/-- The status and pointer tests complete in every state, write nothing but the carries, and latch their verdict, 0
meaning "branch" (R223, R224, R227, R228). It rests on the spec's own decision D4. -/
def Obligations.StatusAndPointerTestsComplete : Prop :=
  ∀ (s : State) (n : BitVec 4) (m : Nat),
    exec (.ifS1 n) s = .next (afterSeq s (!s.status.getLsbD n.toNat)) ∧
    exec (.ifS0 n) s = .next (afterSeq s (s.status.getLsbD n.toNat)) ∧
    (∃ c, exec (.ifPEq m) s = .next (afterSeq s c) ∧ (c = false ↔ s.p = m)) ∧
    (∃ c, exec (.ifPNe m) s = .next (afterSeq s c) ∧ (c = false ↔ s.p ≠ m))

/-- A test and the branch word after it are two ticks (R179, R230, R279, R376), and the verdict alone decides (R278): on 0
the branch is taken, to the pending page (R280) or its own when that target is in the bank, and ends a pending selection; on
1 it falls through to the word after it, wherever its target lies, and leaves a pending selection (R281).  It rests on the
spec's own decisions D2, D3, D4, D14. -/
def Obligations.BranchAfterATestFollowsItsVerdict : Prop :=
  ∀ (s t : State) (i : Instr) (L : BitVec 8), s.Inv →
    (isArith i [.ifBZero, .ifCZero, .ifAGeC, .ifAGeB, .ifANonzero, .ifCNonzero] ||
      isSpecial i [.ifS1, .ifS0, .ifPEq, .ifPNe]) = true →
    decode s.params (fetchedWord s) = .ok i → step s = .next t → decode t.params (fetchedWord t) = .ok (.ifNcGoto L) →
    let target := pageAddress (if s.delayedRom then s.delayedBank else pageOf t.pc) L
    (t.prevCarry = false → target.toNat < s.params.romSize →
      ∃ u, step t = .next u ∧ u.pc = target ∧ u.delayedRom = false ∧ u.delayedBank = s.delayedBank) ∧
    (t.prevCarry = true →
      ∃ u, step t = .next u ∧ u.pc.toNat = (s.pc.toNat + 2) % s.params.romSize ∧ u.delayedRom = s.delayedRom ∧
        u.delayedBank = s.delayedBank)

/-! ### Special group 0 -/

/-- `nop`, `hi I'm woodstock`, `binary`, `decimal`, `display toggle` and `display off` complete in every state, with
their one effect or none besides the pc and the carry latch (R200, R202, R209, R242, R243, R256). It rests on the
spec's own decision D30. -/
def Obligations.NoOperationBaseAndDisplayInstructionsComplete : Prop :=
  ∀ s : State,
    (∀ i ∈ [Instr.nop, .woodstock], exec i s = .next (afterSeq s s.carry)) ∧
    exec .binary s = .next { afterSeq s s.carry with base := .binary } ∧
    exec .decimal s = .next { afterSeq s s.carry with base := .decimal } ∧
    exec .displayToggle s = .next { afterSeq s s.carry with displayEnable := !s.displayEnable } ∧
    exec .displayOff s = .next { afterSeq s s.carry with displayEnable := false }

/-- `p - 1 -> p`, `p + 1 -> p` and `p = n` complete in every state; the steps wrap modulo 15, 0 to 14 and 14 to 0, and
undo each other on legal pointers (R203, R204, R229). It rests on the spec's own decision D21. -/
def Obligations.PointerInstructionsComplete : Prop :=
  ∀ (s : State) (n : Nat),
    (∃ q, exec .decP s = .next { afterSeq s s.carry with p := q } ∧ (s.p ≤ 14 → q = if s.p = 0 then 14 else s.p - 1)) ∧
    (∃ q, exec .incP s = .next { afterSeq s s.carry with p := q } ∧ (s.p ≤ 14 → q = if s.p = 14 then 0 else s.p + 1)) ∧
    exec (.setP n) s = .next { afterSeq s s.carry with p := n }

/-- `delayed select rom n` completes in every state and only records the selection, the last of two winning (R225);
`keys -> rom address` completes in every state and lands on offset `keycode` of the current page, without committing
a pending selection (R201). It rests on the spec's own decisions D2, D3, D14, D19, D26. -/
def Obligations.DelayedSelectAndKeyDispatchComplete : Prop :=
  ∀ s : State,
    (∃ target : Pc, exec .keysToRom s = .next (afterJump s target) ∧
      target.toNat = s.pc.toNat / 256 * 256 + s.keycode.toNat) ∧
    ∀ n : BitVec 4,
      exec (.delayedSelectRom n) s = .next { afterSeq s s.carry with delayedBank := n, delayedRom := true } ∧
      ∀ (m : BitVec 4) (t u : State), exec (.delayedSelectRom n) s = .next t → exec (.delayedSelectRom m) t = .next u →
        u.delayedBank = m ∧ u.delayedRom = true ∧ u.romBank = s.romBank

/-- `return` completes in every state: `sp` steps down in the ring, and the pc goes to one past what the slot holds,
whatever pushed it, modulo ROM_SIZE (R205, R286, R288). It rests on the spec's own decisions D13, D26. -/
def Obligations.ReturnCompletes : Prop :=
  ∀ s : State, s.params.wf → s.sp < s.params.stackSize →
    ∃ target : Pc, exec .ret s = .next { afterJump s target with
        sp := if s.sp = 0 then s.params.stackSize - 1 else s.sp - 1 } ∧
      target.toNat =
        ((s.stack.getD (if s.sp = 0 then s.params.stackSize - 1 else s.sp - 1) 0).toNat + 1) % s.params.romSize

/-- `select rom n` completes when page `n` at the current offset is in the bank, and lands one past it modulo ROM_SIZE
(R208); else it raises AddressFault cause 2 (R343, R345). It rests on the spec's own decisions D2, D26. The fault
codes are the spec's own decision D28, and that `exec` reads the record's opcode from the ROM at the fetch address
is log entry 9. -/
def Obligations.SelectRomCompletesOrFaults : Prop :=
  ∀ (s : State) (n : BitVec 4), s.params.wf →
    (n.toNat * 256 + s.pc.toNat % 256 < s.params.romSize →
      ∃ target : Pc, exec (.selectRom n) s = .next (afterJump s target) ∧
        target.toNat = (n.toNat * 256 + s.pc.toNat % 256 + 1) % s.params.romSize) ∧
    (s.params.romSize ≤ n.toNat * 256 + s.pc.toNat % 256 →
      ∃ f, exec (.selectRom n) s = .fault f ∧ f.kind = 2 ∧ f.cause = 2 ∧ f.record = ⟨s.romBank, s.pc, fetchedWord s⟩)

/-- `c -> data address` and `clear data registers` complete in every state: the latch takes `C[1] * 16 + C[0]`, every
data register becomes 0, and neither does more (R206, R207). It rests on the spec's own decision D12. -/
def Obligations.DataMemoryInstructionsComplete : Prop :=
  ∀ s : State,
    (∃ a : BitVec 8, exec .cToDataAddress s = .next { afterSeq s s.carry with address := a } ∧
      a.toNat = (s.regC.nib 1).toNat * 16 + (s.regC.nib 0).toNat) ∧
    (∃ m : List Reg, exec .clearDataRegisters s = .next { afterSeq s s.carry with ram := m } ∧
      m.length = s.ram.length ∧ ∀ r ∈ m, ∀ k, k < 14 → r.nib k = 0)

/-! ### Special groups 1 and 3 -/

/-- `1 -> s(n)`, `0 -> s(n)` and `clear s` complete in every state, bit by bit: `0 -> s(n)` leaves a bit of
`ZERO_S_STICKY` alone while a key is down, `clear s` keeps bits 1, 2, 5 and 15 (R222, R226, R241). It rests on the
spec's own decision D8. -/
def Obligations.StatusBitInstructionsComplete : Prop :=
  ∀ (s : State) (n : BitVec 4),
    (∃ v, exec (.setS n) s = .next { afterSeq s s.carry with status := v } ∧
      ∀ k, k < 16 → v.getLsbD k = (decide (k = n.toNat) || s.status.getLsbD k)) ∧
    (∃ v, exec (.resetS n) s = .next { afterSeq s s.carry with status := v } ∧
      ∀ k, k < 16 → v.getLsbD k =
        (s.status.getLsbD k && !(decide (k = n.toNat) && !(s.params.zeroSSticky.getLsbD k && s.keydown)))) ∧
    (∃ v, exec .clearS s = .next { afterSeq s s.carry with status := v } ∧
      ∀ k, k < 16 → v.getLsbD k = (s.status.getLsbD k && decide (k ∈ [1, 2, 5, 15])))

/-! ### Special group 2 -/

/-- `clear registers` completes in every state: all eight registers become 0 and the window W; nothing else but the pc
and the carry latch changes (R240). It rests on the spec's own decisions D15, D16. -/
def Obligations.ClearRegistersCompletes : Prop :=
  ∀ s : State, ∃ z : Reg, (∀ k, k < 14 → z.nib k = 0) ∧
    exec .clearRegisters s = .next { afterField s ⟨0, 13⟩ s.carry with
      regA := z, regB := z, regC := z, regY := z, regZ := z, regT := z, regM := z, regN := z }

/-- The memory-register and register-stack moves complete in every state, on whole registers, all reads before any
write, writing no flag (R244, R246 to R253). It rests on the spec's own decisions D15, D17. -/
def Obligations.WholeRegisterMovesComplete : Prop :=
  ∀ s : State,
    exec .m1ExchC s = .next { afterField s ⟨0, 13⟩ s.carry with regM := s.regC, regC := s.regM } ∧
    exec .m1ToC s = .next { afterField s ⟨0, 13⟩ s.carry with regC := s.regM } ∧
    exec .m2ExchC s = .next { afterField s ⟨0, 13⟩ s.carry with regN := s.regC, regC := s.regN } ∧
    exec .m2ToC s = .next { afterField s ⟨0, 13⟩ s.carry with regC := s.regN } ∧
    exec .stackToA s = .next { afterField s ⟨0, 13⟩ s.carry with regA := s.regY, regY := s.regZ, regZ := s.regT } ∧
    exec .downRotate s = .next { afterField s ⟨0, 13⟩ s.carry with
      regC := s.regY, regY := s.regZ, regZ := s.regT, regT := s.regC } ∧
    exec .yToA s = .next { afterField s ⟨0, 13⟩ s.carry with regA := s.regY } ∧
    exec .cToStack s = .next { afterField s ⟨0, 13⟩ s.carry with regY := s.regC, regZ := s.regY, regT := s.regZ }

/-- `f -> a` and `f exch a` complete in every state and move nibble 0 of A only (R258, R259). It rests on the spec's own
decisions D15, D18. -/
def Obligations.FRegisterMovesComplete : Prop :=
  ∀ s : State, ∃ r : Reg,
    exec .fToA s = .next { afterField s ⟨0, 0⟩ s.carry with regA := r } ∧
    exec .fExchA s = .next { afterField s ⟨0, 0⟩ s.carry with regA := r, f := s.regA.nib 0 } ∧
    r.nib 0 = s.f ∧ ∀ k, 1 ≤ k → k < 14 → r.nib k = s.regA.nib k

/-- `load n` completes when `p` is at most 13: nibble `p` of C becomes `n`, whatever the base, and `p` steps down
modulo 14 (R260); with `p` at 14 or more it raises DecoderFault cause 4 (R342, R345). It rests on the spec's own
decisions D21 and, for the window `(p, p)`, D15. The fault codes are the spec's own decision D28, and that `exec`
reads the record's opcode from the ROM at the fetch address is log entry 9. -/
def Obligations.LoadConstantCompletesOrFaults : Prop :=
  ∀ (s : State) (n : BitVec 4),
    (s.p ≤ 13 → ∃ r : Reg,
      exec (.loadN n) s = .next { afterField s ⟨s.p, s.p⟩ s.carry with
        regC := r, p := if s.p = 0 then 13 else s.p - 1 } ∧
      r.nib s.p = n ∧ ∀ k, k < 14 → k ≠ s.p → r.nib k = s.regC.nib k) ∧
    (14 ≤ s.p →
      ∃ f, exec (.loadN n) s = .fault f ∧ f.kind = 1 ∧ f.cause = 4 ∧ f.record = ⟨s.romBank, s.pc, fetchedWord s⟩)

/-! ### Control transfer and the stack -/

/-- `jsb L` completes when its target is in the bank: it stores its own address in slot `sp`, steps `sp` up in the
ring, lands on offset `t` of the pending page or its own, and ends a pending selection (R276, R280, R285); else it
raises AddressFault cause 3 (R343, R345). It rests on the spec's own decisions D2, D3, D13, D14. The fault codes
are the spec's own decision D28, and that `exec` reads the record's opcode from the ROM at the fetch address is
log entry 9. -/
def Obligations.JsbCompletesOrFaults : Prop :=
  ∀ (s : State) (t : BitVec 8),
    let target := (if s.delayedRom then s.delayedBank.toNat else s.pc.toNat / 256) * 256 + t.toNat
    (target < s.params.romSize → ∃ pc : Pc, pc.toNat = target ∧
      exec (.jsb t) s = .next { afterJump s pc with
        stack := s.stack.set s.sp s.pc, sp := (s.sp + 1) % s.params.stackSize, delayedRom := false }) ∧
    (s.params.romSize ≤ target →
      ∃ f, exec (.jsb t) s = .fault f ∧ f.kind = 2 ∧ f.cause = 3 ∧ f.record = ⟨s.romBank, s.pc, fetchedWord s⟩)

/-- `if nc goto L`: with PREV_CARRY 1 it goes on and leaves a pending selection; with PREV_CARRY 0 it lands on offset
`t` of the pending page or its own and ends the selection (R278, R280, R281), or raises AddressFault cause 3
(R343, R345). It rests on the spec's own decisions D2, D3, D4, D14. The fault codes are the spec's own decision
D28, and that `exec` reads the record's opcode from the ROM at the fetch address is log entry 9. -/
def Obligations.IfNcGotoCompletesOrFaults : Prop :=
  ∀ (s : State) (t : BitVec 8),
    let target := (if s.delayedRom then s.delayedBank.toNat else s.pc.toNat / 256) * 256 + t.toNat
    (s.prevCarry = true → exec (.ifNcGoto t) s = .next (afterSeq s s.carry)) ∧
    (s.prevCarry = false → target < s.params.romSize → ∃ pc : Pc, pc.toNat = target ∧
      exec (.ifNcGoto t) s = .next { afterJump s pc with delayedRom := false }) ∧
    (s.prevCarry = false → s.params.romSize ≤ target →
      ∃ f, exec (.ifNcGoto t) s = .fault f ∧ f.kind = 2 ∧ f.cause = 3 ∧
        f.record = ⟨s.romBank, s.pc, fetchedWord s⟩)

/-- A `return` after a `jsb`, with any instructions between that leave the stack as the `jsb` left it, goes to the word
after the `jsb` and restores `sp` (R205, R277, R289). It rests on the spec's own decision D13. -/
def Obligations.ReturnGoesPastItsJsb : Prop :=
  ∀ (s t u v : State) (L : BitVec 8), s.Inv → exec (.jsb L) s = .next t →
    u.stack = t.stack → u.sp = t.sp → u.params = t.params → exec .ret u = .next v →
    v.pc.toNat = (s.pc.toNat + 1) % s.params.romSize ∧ v.sp = s.sp

/-! ### Reset and the host -/

/-- Reset (R47, R371): from any state, every item is at its reset value, the parameters and the ROM image stay, and a
second reset changes nothing. It rests on the spec's own decision D20. -/
def Obligations.ResetSetsEveryItem : Prop :=
  ∀ s : State, let t := hostReset s
    (∀ X k, k < 14 → (t.getReg X).nib k = 0) ∧
    (t.ram.length = s.params.dataRegisters ∧ ∀ r ∈ t.ram, ∀ k, k < 14 → r.nib k = 0) ∧
    (t.stack.length = s.params.stackSize ∧ ∀ v ∈ t.stack, v = 0) ∧
    t.sp = 0 ∧ t.pc = 0 ∧ t.romBank = 0 ∧ t.delayedBank = 0 ∧ t.p = 0 ∧ t.f = 0 ∧ t.first = 0 ∧ t.last = 0 ∧
    t.base = .decimal ∧ (∀ k, k < 16 → t.status.getLsbD k = decide (k = 3 ∨ k = 5)) ∧ t.mode = true ∧
    t.carry = false ∧ t.prevCarry = false ∧ t.delayedRom = false ∧ t.displayEnable = false ∧ t.timer = false ∧
    t.trace = false ∧ t.keycode = 0 ∧ t.keydown = false ∧ t.address = 0 ∧
    t.params = s.params ∧ t.rom = s.rom ∧ hostReset t = t

/-- `set_key` and `set_trace` (R296, R297): a code above 255 is refused; else the code and the key state are latched, a
press sets `s(15)`, a release clears no bit, and nothing else changes. It rests on the spec's own decisions D19,
D32. -/
def Obligations.KeyAndTraceCallsLatchTheirInputs : Prop :=
  ∀ (s : State) (code : Nat) (down b : Bool),
    (255 < code → setKey code down s = .refused .keycodeTooWide) ∧
    (code ≤ 255 → ∃ (kc : BitVec 8) (v : BitVec 16), kc.toNat = code ∧
      setKey code down s = .next { s with keycode := kc, keydown := down, status := v } ∧
      ∀ k, k < 16 → v.getLsbD k = (s.status.getLsbD k || (down && decide (k = 15)))) ∧
    setTrace b s = { s with trace := b }

/-- `new_processor` (R60, R298): it refuses parameters out of range; with parameters in range it refuses an image with too
few cells or a cell of 0x400 or more, and otherwise answers a processor at reset whose ROM reads, at every address of the
ROM, the cell the host supplied. It rests on the spec's own decisions D11, D12, D25. That parameters out of range are
refused, that surplus cells of an image are ignored and that a wide cell among them refuses it too are the model's choice, log
entry 13. -/
def Obligations.NewProcessorLoadsOrRefusesTheImage : Prop :=
  ∀ (P : Params) (image : List (BitVec 16)) (banks regs : Nat),
    (¬ (withCounts P banks regs).wf → newProcessor P image banks regs = .refused .parametersOutOfRange) ∧
    ((withCounts P banks regs).wf →
      (image.length < banks * P.romSize → newProcessor P image banks regs = .refused .romImageTooShort) ∧
      (banks * P.romSize ≤ image.length → (∃ c ∈ image, 1024 ≤ c.toNat) →
        newProcessor P image banks regs = .refused .romCellTooWide) ∧
      (banks * P.romSize ≤ image.length → (∀ c ∈ image, c.toNat < 1024) →
        ∃ rom : Memory, newProcessor P image banks regs = .next (State.initial (withCounts P banks regs) rom) ∧
          ∀ a, a < banks * P.romSize → (rom.read a).toNat = (image.getD a 0).toNat))
end

