-- ==== Sys2Proof/Laws/State.lean ====
section
/-!
SUPPORT. Laws/State.lean: what each field of the state is after each named update, one lemma per field per update, so
that no proof unfolds a record update.
-/

namespace Sys2Proof.Machine

/-! ### The window -/

@[simp] theorem setWindow_regA (s : State) (w : Window) : (s.setWindow w).regA = s.regA := rfl
@[simp] theorem setWindow_regB (s : State) (w : Window) : (s.setWindow w).regB = s.regB := rfl
@[simp] theorem setWindow_regC (s : State) (w : Window) : (s.setWindow w).regC = s.regC := rfl
@[simp] theorem setWindow_regY (s : State) (w : Window) : (s.setWindow w).regY = s.regY := rfl
@[simp] theorem setWindow_regZ (s : State) (w : Window) : (s.setWindow w).regZ = s.regZ := rfl
@[simp] theorem setWindow_regT (s : State) (w : Window) : (s.setWindow w).regT = s.regT := rfl
@[simp] theorem setWindow_regM (s : State) (w : Window) : (s.setWindow w).regM = s.regM := rfl
@[simp] theorem setWindow_regN (s : State) (w : Window) : (s.setWindow w).regN = s.regN := rfl
@[simp] theorem setWindow_ram (s : State) (w : Window) : (s.setWindow w).ram = s.ram := rfl
@[simp] theorem setWindow_stack (s : State) (w : Window) : (s.setWindow w).stack = s.stack := rfl
@[simp] theorem setWindow_sp (s : State) (w : Window) : (s.setWindow w).sp = s.sp := rfl
@[simp] theorem setWindow_pc (s : State) (w : Window) : (s.setWindow w).pc = s.pc := rfl
@[simp] theorem setWindow_romBank (s : State) (w : Window) : (s.setWindow w).romBank = s.romBank := rfl
@[simp] theorem setWindow_delayedBank (s : State) (w : Window) : (s.setWindow w).delayedBank = s.delayedBank := rfl
@[simp] theorem setWindow_p (s : State) (w : Window) : (s.setWindow w).p = s.p := rfl
@[simp] theorem setWindow_f (s : State) (w : Window) : (s.setWindow w).f = s.f := rfl
@[simp] theorem setWindow_base (s : State) (w : Window) : (s.setWindow w).base = s.base := rfl
@[simp] theorem setWindow_first (s : State) (w : Window) : (s.setWindow w).first = w.first := rfl
@[simp] theorem setWindow_last (s : State) (w : Window) : (s.setWindow w).last = w.last := rfl
@[simp] theorem setWindow_status (s : State) (w : Window) : (s.setWindow w).status = s.status := rfl
@[simp] theorem setWindow_mode (s : State) (w : Window) : (s.setWindow w).mode = s.mode := rfl
@[simp] theorem setWindow_carry (s : State) (w : Window) : (s.setWindow w).carry = s.carry := rfl
@[simp] theorem setWindow_prevCarry (s : State) (w : Window) : (s.setWindow w).prevCarry = s.prevCarry := rfl
@[simp] theorem setWindow_delayedRom (s : State) (w : Window) : (s.setWindow w).delayedRom = s.delayedRom := rfl
@[simp] theorem setWindow_displayEnable (s : State) (w : Window) : (s.setWindow w).displayEnable = s.displayEnable := rfl
@[simp] theorem setWindow_timer (s : State) (w : Window) : (s.setWindow w).timer = s.timer := rfl
@[simp] theorem setWindow_trace (s : State) (w : Window) : (s.setWindow w).trace = s.trace := rfl
@[simp] theorem setWindow_keycode (s : State) (w : Window) : (s.setWindow w).keycode = s.keycode := rfl
@[simp] theorem setWindow_keydown (s : State) (w : Window) : (s.setWindow w).keydown = s.keydown := rfl
@[simp] theorem setWindow_address (s : State) (w : Window) : (s.setWindow w).address = s.address := rfl
@[simp] theorem setWindow_params (s : State) (w : Window) : (s.setWindow w).params = s.params := rfl
@[simp] theorem setWindow_rom (s : State) (w : Window) : (s.setWindow w).rom = s.rom := rfl

/-! ### The advance -/

@[simp] theorem advance_regA (s : State) (n : Next) : (advance n s).regA = s.regA := rfl
@[simp] theorem advance_regB (s : State) (n : Next) : (advance n s).regB = s.regB := rfl
@[simp] theorem advance_regC (s : State) (n : Next) : (advance n s).regC = s.regC := rfl
@[simp] theorem advance_regY (s : State) (n : Next) : (advance n s).regY = s.regY := rfl
@[simp] theorem advance_regZ (s : State) (n : Next) : (advance n s).regZ = s.regZ := rfl
@[simp] theorem advance_regT (s : State) (n : Next) : (advance n s).regT = s.regT := rfl
@[simp] theorem advance_regM (s : State) (n : Next) : (advance n s).regM = s.regM := rfl
@[simp] theorem advance_regN (s : State) (n : Next) : (advance n s).regN = s.regN := rfl
@[simp] theorem advance_ram (s : State) (n : Next) : (advance n s).ram = s.ram := rfl
@[simp] theorem advance_stack (s : State) (n : Next) : (advance n s).stack = s.stack := rfl
@[simp] theorem advance_sp (s : State) (n : Next) : (advance n s).sp = s.sp := rfl
@[simp] theorem advance_pc (s : State) (n : Next) : (advance n s).pc = nextPc s n := rfl
@[simp] theorem advance_romBank (s : State) (n : Next) : (advance n s).romBank = s.romBank := rfl
@[simp] theorem advance_delayedBank (s : State) (n : Next) : (advance n s).delayedBank = s.delayedBank := rfl
@[simp] theorem advance_p (s : State) (n : Next) : (advance n s).p = s.p := rfl
@[simp] theorem advance_f (s : State) (n : Next) : (advance n s).f = s.f := rfl
@[simp] theorem advance_base (s : State) (n : Next) : (advance n s).base = s.base := rfl
@[simp] theorem advance_first (s : State) (n : Next) : (advance n s).first = s.first := rfl
@[simp] theorem advance_last (s : State) (n : Next) : (advance n s).last = s.last := rfl
@[simp] theorem advance_status (s : State) (n : Next) : (advance n s).status = s.status := rfl
@[simp] theorem advance_mode (s : State) (n : Next) : (advance n s).mode = s.mode := rfl
@[simp] theorem advance_carry (s : State) (n : Next) : (advance n s).carry = false := rfl
@[simp] theorem advance_prevCarry (s : State) (n : Next) : (advance n s).prevCarry = s.carry := rfl
@[simp] theorem advance_delayedRom (s : State) (n : Next) : (advance n s).delayedRom = s.delayedRom := rfl
@[simp] theorem advance_displayEnable (s : State) (n : Next) : (advance n s).displayEnable = s.displayEnable := rfl
@[simp] theorem advance_timer (s : State) (n : Next) : (advance n s).timer = s.timer := rfl
@[simp] theorem advance_trace (s : State) (n : Next) : (advance n s).trace = s.trace := rfl
@[simp] theorem advance_keycode (s : State) (n : Next) : (advance n s).keycode = s.keycode := rfl
@[simp] theorem advance_keydown (s : State) (n : Next) : (advance n s).keydown = s.keydown := rfl
@[simp] theorem advance_address (s : State) (n : Next) : (advance n s).address = s.address := rfl
@[simp] theorem advance_params (s : State) (n : Next) : (advance n s).params = s.params := rfl
@[simp] theorem advance_rom (s : State) (n : Next) : (advance n s).rom = s.rom := rfl

/-! ### A verdict -/

@[simp] theorem verdict_regA (s : State) (b : Bool) : (s.verdict b).regA = s.regA := rfl
@[simp] theorem verdict_regB (s : State) (b : Bool) : (s.verdict b).regB = s.regB := rfl
@[simp] theorem verdict_regC (s : State) (b : Bool) : (s.verdict b).regC = s.regC := rfl
@[simp] theorem verdict_regY (s : State) (b : Bool) : (s.verdict b).regY = s.regY := rfl
@[simp] theorem verdict_regZ (s : State) (b : Bool) : (s.verdict b).regZ = s.regZ := rfl
@[simp] theorem verdict_regT (s : State) (b : Bool) : (s.verdict b).regT = s.regT := rfl
@[simp] theorem verdict_regM (s : State) (b : Bool) : (s.verdict b).regM = s.regM := rfl
@[simp] theorem verdict_regN (s : State) (b : Bool) : (s.verdict b).regN = s.regN := rfl
@[simp] theorem verdict_ram (s : State) (b : Bool) : (s.verdict b).ram = s.ram := rfl
@[simp] theorem verdict_stack (s : State) (b : Bool) : (s.verdict b).stack = s.stack := rfl
@[simp] theorem verdict_sp (s : State) (b : Bool) : (s.verdict b).sp = s.sp := rfl
@[simp] theorem verdict_pc (s : State) (b : Bool) : (s.verdict b).pc = s.pc := rfl
@[simp] theorem verdict_romBank (s : State) (b : Bool) : (s.verdict b).romBank = s.romBank := rfl
@[simp] theorem verdict_delayedBank (s : State) (b : Bool) : (s.verdict b).delayedBank = s.delayedBank := rfl
@[simp] theorem verdict_p (s : State) (b : Bool) : (s.verdict b).p = s.p := rfl
@[simp] theorem verdict_f (s : State) (b : Bool) : (s.verdict b).f = s.f := rfl
@[simp] theorem verdict_base (s : State) (b : Bool) : (s.verdict b).base = s.base := rfl
@[simp] theorem verdict_first (s : State) (b : Bool) : (s.verdict b).first = s.first := rfl
@[simp] theorem verdict_last (s : State) (b : Bool) : (s.verdict b).last = s.last := rfl
@[simp] theorem verdict_status (s : State) (b : Bool) : (s.verdict b).status = s.status := rfl
@[simp] theorem verdict_mode (s : State) (b : Bool) : (s.verdict b).mode = s.mode := rfl
@[simp] theorem verdict_carry (s : State) (b : Bool) : (s.verdict b).carry = !b := rfl
@[simp] theorem verdict_prevCarry (s : State) (b : Bool) : (s.verdict b).prevCarry = s.prevCarry := rfl
@[simp] theorem verdict_delayedRom (s : State) (b : Bool) : (s.verdict b).delayedRom = s.delayedRom := rfl
@[simp] theorem verdict_displayEnable (s : State) (b : Bool) : (s.verdict b).displayEnable = s.displayEnable := rfl
@[simp] theorem verdict_timer (s : State) (b : Bool) : (s.verdict b).timer = s.timer := rfl
@[simp] theorem verdict_trace (s : State) (b : Bool) : (s.verdict b).trace = s.trace := rfl
@[simp] theorem verdict_keycode (s : State) (b : Bool) : (s.verdict b).keycode = s.keycode := rfl
@[simp] theorem verdict_keydown (s : State) (b : Bool) : (s.verdict b).keydown = s.keydown := rfl
@[simp] theorem verdict_address (s : State) (b : Bool) : (s.verdict b).address = s.address := rfl
@[simp] theorem verdict_params (s : State) (b : Bool) : (s.verdict b).params = s.params := rfl
@[simp] theorem verdict_rom (s : State) (b : Bool) : (s.verdict b).rom = s.rom := rfl

/-! ### The commit -/

@[simp] theorem commit_regA (s : State) : (commit s).regA = s.regA := rfl
@[simp] theorem commit_regB (s : State) : (commit s).regB = s.regB := rfl
@[simp] theorem commit_regC (s : State) : (commit s).regC = s.regC := rfl
@[simp] theorem commit_regY (s : State) : (commit s).regY = s.regY := rfl
@[simp] theorem commit_regZ (s : State) : (commit s).regZ = s.regZ := rfl
@[simp] theorem commit_regT (s : State) : (commit s).regT = s.regT := rfl
@[simp] theorem commit_regM (s : State) : (commit s).regM = s.regM := rfl
@[simp] theorem commit_regN (s : State) : (commit s).regN = s.regN := rfl
@[simp] theorem commit_ram (s : State) : (commit s).ram = s.ram := rfl
@[simp] theorem commit_stack (s : State) : (commit s).stack = s.stack := rfl
@[simp] theorem commit_sp (s : State) : (commit s).sp = s.sp := rfl
@[simp] theorem commit_pc (s : State) : (commit s).pc = s.pc := rfl
@[simp] theorem commit_romBank (s : State) : (commit s).romBank = s.romBank := rfl
@[simp] theorem commit_delayedBank (s : State) : (commit s).delayedBank = s.delayedBank := rfl
@[simp] theorem commit_p (s : State) : (commit s).p = s.p := rfl
@[simp] theorem commit_f (s : State) : (commit s).f = s.f := rfl
@[simp] theorem commit_base (s : State) : (commit s).base = s.base := rfl
@[simp] theorem commit_first (s : State) : (commit s).first = s.first := rfl
@[simp] theorem commit_last (s : State) : (commit s).last = s.last := rfl
@[simp] theorem commit_status (s : State) : (commit s).status = s.status := rfl
@[simp] theorem commit_mode (s : State) : (commit s).mode = s.mode := rfl
@[simp] theorem commit_carry (s : State) : (commit s).carry = s.carry := rfl
@[simp] theorem commit_prevCarry (s : State) : (commit s).prevCarry = s.prevCarry := rfl
@[simp] theorem commit_delayedRom (s : State) : (commit s).delayedRom = false := rfl
@[simp] theorem commit_displayEnable (s : State) : (commit s).displayEnable = s.displayEnable := rfl
@[simp] theorem commit_timer (s : State) : (commit s).timer = s.timer := rfl
@[simp] theorem commit_trace (s : State) : (commit s).trace = s.trace := rfl
@[simp] theorem commit_keycode (s : State) : (commit s).keycode = s.keycode := rfl
@[simp] theorem commit_keydown (s : State) : (commit s).keydown = s.keydown := rfl
@[simp] theorem commit_address (s : State) : (commit s).address = s.address := rfl
@[simp] theorem commit_params (s : State) : (commit s).params = s.params := rfl
@[simp] theorem commit_rom (s : State) : (commit s).rom = s.rom := rfl

/-! ### A push -/

@[simp] theorem push_regA (s : State) (v : Pc) : (push v s).regA = s.regA := rfl
@[simp] theorem push_regB (s : State) (v : Pc) : (push v s).regB = s.regB := rfl
@[simp] theorem push_regC (s : State) (v : Pc) : (push v s).regC = s.regC := rfl
@[simp] theorem push_regY (s : State) (v : Pc) : (push v s).regY = s.regY := rfl
@[simp] theorem push_regZ (s : State) (v : Pc) : (push v s).regZ = s.regZ := rfl
@[simp] theorem push_regT (s : State) (v : Pc) : (push v s).regT = s.regT := rfl
@[simp] theorem push_regM (s : State) (v : Pc) : (push v s).regM = s.regM := rfl
@[simp] theorem push_regN (s : State) (v : Pc) : (push v s).regN = s.regN := rfl
@[simp] theorem push_ram (s : State) (v : Pc) : (push v s).ram = s.ram := rfl
@[simp] theorem push_stack (s : State) (v : Pc) : (push v s).stack = s.stack.set s.sp v := rfl
@[simp] theorem push_sp (s : State) (v : Pc) : (push v s).sp = (s.sp + 1) % s.params.stackSize := rfl
@[simp] theorem push_pc (s : State) (v : Pc) : (push v s).pc = s.pc := rfl
@[simp] theorem push_romBank (s : State) (v : Pc) : (push v s).romBank = s.romBank := rfl
@[simp] theorem push_delayedBank (s : State) (v : Pc) : (push v s).delayedBank = s.delayedBank := rfl
@[simp] theorem push_p (s : State) (v : Pc) : (push v s).p = s.p := rfl
@[simp] theorem push_f (s : State) (v : Pc) : (push v s).f = s.f := rfl
@[simp] theorem push_base (s : State) (v : Pc) : (push v s).base = s.base := rfl
@[simp] theorem push_first (s : State) (v : Pc) : (push v s).first = s.first := rfl
@[simp] theorem push_last (s : State) (v : Pc) : (push v s).last = s.last := rfl
@[simp] theorem push_status (s : State) (v : Pc) : (push v s).status = s.status := rfl
@[simp] theorem push_mode (s : State) (v : Pc) : (push v s).mode = s.mode := rfl
@[simp] theorem push_carry (s : State) (v : Pc) : (push v s).carry = s.carry := rfl
@[simp] theorem push_prevCarry (s : State) (v : Pc) : (push v s).prevCarry = s.prevCarry := rfl
@[simp] theorem push_delayedRom (s : State) (v : Pc) : (push v s).delayedRom = s.delayedRom := rfl
@[simp] theorem push_displayEnable (s : State) (v : Pc) : (push v s).displayEnable = s.displayEnable := rfl
@[simp] theorem push_timer (s : State) (v : Pc) : (push v s).timer = s.timer := rfl
@[simp] theorem push_trace (s : State) (v : Pc) : (push v s).trace = s.trace := rfl
@[simp] theorem push_keycode (s : State) (v : Pc) : (push v s).keycode = s.keycode := rfl
@[simp] theorem push_keydown (s : State) (v : Pc) : (push v s).keydown = s.keydown := rfl
@[simp] theorem push_address (s : State) (v : Pc) : (push v s).address = s.address := rfl
@[simp] theorem push_params (s : State) (v : Pc) : (push v s).params = s.params := rfl
@[simp] theorem push_rom (s : State) (v : Pc) : (push v s).rom = s.rom := rfl

/-! ### A pop -/

@[simp] theorem dropSlot_regA (s : State) : (dropSlot s).regA = s.regA := rfl
@[simp] theorem dropSlot_regB (s : State) : (dropSlot s).regB = s.regB := rfl
@[simp] theorem dropSlot_regC (s : State) : (dropSlot s).regC = s.regC := rfl
@[simp] theorem dropSlot_regY (s : State) : (dropSlot s).regY = s.regY := rfl
@[simp] theorem dropSlot_regZ (s : State) : (dropSlot s).regZ = s.regZ := rfl
@[simp] theorem dropSlot_regT (s : State) : (dropSlot s).regT = s.regT := rfl
@[simp] theorem dropSlot_regM (s : State) : (dropSlot s).regM = s.regM := rfl
@[simp] theorem dropSlot_regN (s : State) : (dropSlot s).regN = s.regN := rfl
@[simp] theorem dropSlot_ram (s : State) : (dropSlot s).ram = s.ram := rfl
@[simp] theorem dropSlot_stack (s : State) : (dropSlot s).stack = s.stack := rfl
@[simp] theorem dropSlot_sp (s : State) : (dropSlot s).sp = popSlot s := rfl
@[simp] theorem dropSlot_pc (s : State) : (dropSlot s).pc = s.pc := rfl
@[simp] theorem dropSlot_romBank (s : State) : (dropSlot s).romBank = s.romBank := rfl
@[simp] theorem dropSlot_delayedBank (s : State) : (dropSlot s).delayedBank = s.delayedBank := rfl
@[simp] theorem dropSlot_p (s : State) : (dropSlot s).p = s.p := rfl
@[simp] theorem dropSlot_f (s : State) : (dropSlot s).f = s.f := rfl
@[simp] theorem dropSlot_base (s : State) : (dropSlot s).base = s.base := rfl
@[simp] theorem dropSlot_first (s : State) : (dropSlot s).first = s.first := rfl
@[simp] theorem dropSlot_last (s : State) : (dropSlot s).last = s.last := rfl
@[simp] theorem dropSlot_status (s : State) : (dropSlot s).status = s.status := rfl
@[simp] theorem dropSlot_mode (s : State) : (dropSlot s).mode = s.mode := rfl
@[simp] theorem dropSlot_carry (s : State) : (dropSlot s).carry = s.carry := rfl
@[simp] theorem dropSlot_prevCarry (s : State) : (dropSlot s).prevCarry = s.prevCarry := rfl
@[simp] theorem dropSlot_delayedRom (s : State) : (dropSlot s).delayedRom = s.delayedRom := rfl
@[simp] theorem dropSlot_displayEnable (s : State) : (dropSlot s).displayEnable = s.displayEnable := rfl
@[simp] theorem dropSlot_timer (s : State) : (dropSlot s).timer = s.timer := rfl
@[simp] theorem dropSlot_trace (s : State) : (dropSlot s).trace = s.trace := rfl
@[simp] theorem dropSlot_keycode (s : State) : (dropSlot s).keycode = s.keycode := rfl
@[simp] theorem dropSlot_keydown (s : State) : (dropSlot s).keydown = s.keydown := rfl
@[simp] theorem dropSlot_address (s : State) : (dropSlot s).address = s.address := rfl
@[simp] theorem dropSlot_params (s : State) : (dropSlot s).params = s.params := rfl
@[simp] theorem dropSlot_rom (s : State) : (dropSlot s).rom = s.rom := rfl

/-! ### Setting a status bit -/

@[simp] theorem setStatusBit_regA (s : State) (n : BitVec 4) : (s.setStatusBit n).regA = s.regA := rfl
@[simp] theorem setStatusBit_regB (s : State) (n : BitVec 4) : (s.setStatusBit n).regB = s.regB := rfl
@[simp] theorem setStatusBit_regC (s : State) (n : BitVec 4) : (s.setStatusBit n).regC = s.regC := rfl
@[simp] theorem setStatusBit_regY (s : State) (n : BitVec 4) : (s.setStatusBit n).regY = s.regY := rfl
@[simp] theorem setStatusBit_regZ (s : State) (n : BitVec 4) : (s.setStatusBit n).regZ = s.regZ := rfl
@[simp] theorem setStatusBit_regT (s : State) (n : BitVec 4) : (s.setStatusBit n).regT = s.regT := rfl
@[simp] theorem setStatusBit_regM (s : State) (n : BitVec 4) : (s.setStatusBit n).regM = s.regM := rfl
@[simp] theorem setStatusBit_regN (s : State) (n : BitVec 4) : (s.setStatusBit n).regN = s.regN := rfl
@[simp] theorem setStatusBit_ram (s : State) (n : BitVec 4) : (s.setStatusBit n).ram = s.ram := rfl
@[simp] theorem setStatusBit_stack (s : State) (n : BitVec 4) : (s.setStatusBit n).stack = s.stack := rfl
@[simp] theorem setStatusBit_sp (s : State) (n : BitVec 4) : (s.setStatusBit n).sp = s.sp := rfl
@[simp] theorem setStatusBit_pc (s : State) (n : BitVec 4) : (s.setStatusBit n).pc = s.pc := rfl
@[simp] theorem setStatusBit_romBank (s : State) (n : BitVec 4) : (s.setStatusBit n).romBank = s.romBank := rfl
@[simp] theorem setStatusBit_delayedBank (s : State) (n : BitVec 4) : (s.setStatusBit n).delayedBank = s.delayedBank := rfl
@[simp] theorem setStatusBit_p (s : State) (n : BitVec 4) : (s.setStatusBit n).p = s.p := rfl
@[simp] theorem setStatusBit_f (s : State) (n : BitVec 4) : (s.setStatusBit n).f = s.f := rfl
@[simp] theorem setStatusBit_base (s : State) (n : BitVec 4) : (s.setStatusBit n).base = s.base := rfl
@[simp] theorem setStatusBit_first (s : State) (n : BitVec 4) : (s.setStatusBit n).first = s.first := rfl
@[simp] theorem setStatusBit_last (s : State) (n : BitVec 4) : (s.setStatusBit n).last = s.last := rfl
@[simp] theorem setStatusBit_status (s : State) (n : BitVec 4) : (s.setStatusBit n).status = s.status ||| bitMask n := rfl
@[simp] theorem setStatusBit_mode (s : State) (n : BitVec 4) : (s.setStatusBit n).mode = s.mode := rfl
@[simp] theorem setStatusBit_carry (s : State) (n : BitVec 4) : (s.setStatusBit n).carry = s.carry := rfl
@[simp] theorem setStatusBit_prevCarry (s : State) (n : BitVec 4) : (s.setStatusBit n).prevCarry = s.prevCarry := rfl
@[simp] theorem setStatusBit_delayedRom (s : State) (n : BitVec 4) : (s.setStatusBit n).delayedRom = s.delayedRom := rfl
@[simp] theorem setStatusBit_displayEnable (s : State) (n : BitVec 4) : (s.setStatusBit n).displayEnable = s.displayEnable := rfl
@[simp] theorem setStatusBit_timer (s : State) (n : BitVec 4) : (s.setStatusBit n).timer = s.timer := rfl
@[simp] theorem setStatusBit_trace (s : State) (n : BitVec 4) : (s.setStatusBit n).trace = s.trace := rfl
@[simp] theorem setStatusBit_keycode (s : State) (n : BitVec 4) : (s.setStatusBit n).keycode = s.keycode := rfl
@[simp] theorem setStatusBit_keydown (s : State) (n : BitVec 4) : (s.setStatusBit n).keydown = s.keydown := rfl
@[simp] theorem setStatusBit_address (s : State) (n : BitVec 4) : (s.setStatusBit n).address = s.address := rfl
@[simp] theorem setStatusBit_params (s : State) (n : BitVec 4) : (s.setStatusBit n).params = s.params := rfl
@[simp] theorem setStatusBit_rom (s : State) (n : BitVec 4) : (s.setStatusBit n).rom = s.rom := rfl

/-! ### Clearing a status bit -/

@[simp] theorem clearStatusBit_regA (s : State) (n : BitVec 4) : (s.clearStatusBit n).regA = s.regA := rfl
@[simp] theorem clearStatusBit_regB (s : State) (n : BitVec 4) : (s.clearStatusBit n).regB = s.regB := rfl
@[simp] theorem clearStatusBit_regC (s : State) (n : BitVec 4) : (s.clearStatusBit n).regC = s.regC := rfl
@[simp] theorem clearStatusBit_regY (s : State) (n : BitVec 4) : (s.clearStatusBit n).regY = s.regY := rfl
@[simp] theorem clearStatusBit_regZ (s : State) (n : BitVec 4) : (s.clearStatusBit n).regZ = s.regZ := rfl
@[simp] theorem clearStatusBit_regT (s : State) (n : BitVec 4) : (s.clearStatusBit n).regT = s.regT := rfl
@[simp] theorem clearStatusBit_regM (s : State) (n : BitVec 4) : (s.clearStatusBit n).regM = s.regM := rfl
@[simp] theorem clearStatusBit_regN (s : State) (n : BitVec 4) : (s.clearStatusBit n).regN = s.regN := rfl
@[simp] theorem clearStatusBit_ram (s : State) (n : BitVec 4) : (s.clearStatusBit n).ram = s.ram := rfl
@[simp] theorem clearStatusBit_stack (s : State) (n : BitVec 4) : (s.clearStatusBit n).stack = s.stack := rfl
@[simp] theorem clearStatusBit_sp (s : State) (n : BitVec 4) : (s.clearStatusBit n).sp = s.sp := rfl
@[simp] theorem clearStatusBit_pc (s : State) (n : BitVec 4) : (s.clearStatusBit n).pc = s.pc := rfl
@[simp] theorem clearStatusBit_romBank (s : State) (n : BitVec 4) : (s.clearStatusBit n).romBank = s.romBank := rfl
@[simp] theorem clearStatusBit_delayedBank (s : State) (n : BitVec 4) : (s.clearStatusBit n).delayedBank = s.delayedBank := rfl
@[simp] theorem clearStatusBit_p (s : State) (n : BitVec 4) : (s.clearStatusBit n).p = s.p := rfl
@[simp] theorem clearStatusBit_f (s : State) (n : BitVec 4) : (s.clearStatusBit n).f = s.f := rfl
@[simp] theorem clearStatusBit_base (s : State) (n : BitVec 4) : (s.clearStatusBit n).base = s.base := rfl
@[simp] theorem clearStatusBit_first (s : State) (n : BitVec 4) : (s.clearStatusBit n).first = s.first := rfl
@[simp] theorem clearStatusBit_last (s : State) (n : BitVec 4) : (s.clearStatusBit n).last = s.last := rfl
@[simp] theorem clearStatusBit_status (s : State) (n : BitVec 4) : (s.clearStatusBit n).status = s.status &&& ~~~ bitMask n := rfl
@[simp] theorem clearStatusBit_mode (s : State) (n : BitVec 4) : (s.clearStatusBit n).mode = s.mode := rfl
@[simp] theorem clearStatusBit_carry (s : State) (n : BitVec 4) : (s.clearStatusBit n).carry = s.carry := rfl
@[simp] theorem clearStatusBit_prevCarry (s : State) (n : BitVec 4) : (s.clearStatusBit n).prevCarry = s.prevCarry := rfl
@[simp] theorem clearStatusBit_delayedRom (s : State) (n : BitVec 4) : (s.clearStatusBit n).delayedRom = s.delayedRom := rfl
@[simp] theorem clearStatusBit_displayEnable (s : State) (n : BitVec 4) : (s.clearStatusBit n).displayEnable = s.displayEnable := rfl
@[simp] theorem clearStatusBit_timer (s : State) (n : BitVec 4) : (s.clearStatusBit n).timer = s.timer := rfl
@[simp] theorem clearStatusBit_trace (s : State) (n : BitVec 4) : (s.clearStatusBit n).trace = s.trace := rfl
@[simp] theorem clearStatusBit_keycode (s : State) (n : BitVec 4) : (s.clearStatusBit n).keycode = s.keycode := rfl
@[simp] theorem clearStatusBit_keydown (s : State) (n : BitVec 4) : (s.clearStatusBit n).keydown = s.keydown := rfl
@[simp] theorem clearStatusBit_address (s : State) (n : BitVec 4) : (s.clearStatusBit n).address = s.address := rfl
@[simp] theorem clearStatusBit_params (s : State) (n : BitVec 4) : (s.clearStatusBit n).params = s.params := rfl
@[simp] theorem clearStatusBit_rom (s : State) (n : BitVec 4) : (s.clearStatusBit n).rom = s.rom := rfl

/-! ### Placing a word at the fetch address -/

@[simp] theorem storeAtFetch_regA (s : State) (w : Word) : (storeAtFetch s w).regA = s.regA := rfl
@[simp] theorem storeAtFetch_regB (s : State) (w : Word) : (storeAtFetch s w).regB = s.regB := rfl
@[simp] theorem storeAtFetch_regC (s : State) (w : Word) : (storeAtFetch s w).regC = s.regC := rfl
@[simp] theorem storeAtFetch_regY (s : State) (w : Word) : (storeAtFetch s w).regY = s.regY := rfl
@[simp] theorem storeAtFetch_regZ (s : State) (w : Word) : (storeAtFetch s w).regZ = s.regZ := rfl
@[simp] theorem storeAtFetch_regT (s : State) (w : Word) : (storeAtFetch s w).regT = s.regT := rfl
@[simp] theorem storeAtFetch_regM (s : State) (w : Word) : (storeAtFetch s w).regM = s.regM := rfl
@[simp] theorem storeAtFetch_regN (s : State) (w : Word) : (storeAtFetch s w).regN = s.regN := rfl
@[simp] theorem storeAtFetch_ram (s : State) (w : Word) : (storeAtFetch s w).ram = s.ram := rfl
@[simp] theorem storeAtFetch_stack (s : State) (w : Word) : (storeAtFetch s w).stack = s.stack := rfl
@[simp] theorem storeAtFetch_sp (s : State) (w : Word) : (storeAtFetch s w).sp = s.sp := rfl
@[simp] theorem storeAtFetch_pc (s : State) (w : Word) : (storeAtFetch s w).pc = s.pc := rfl
@[simp] theorem storeAtFetch_romBank (s : State) (w : Word) : (storeAtFetch s w).romBank = s.romBank := rfl
@[simp] theorem storeAtFetch_delayedBank (s : State) (w : Word) : (storeAtFetch s w).delayedBank = s.delayedBank := rfl
@[simp] theorem storeAtFetch_p (s : State) (w : Word) : (storeAtFetch s w).p = s.p := rfl
@[simp] theorem storeAtFetch_f (s : State) (w : Word) : (storeAtFetch s w).f = s.f := rfl
@[simp] theorem storeAtFetch_base (s : State) (w : Word) : (storeAtFetch s w).base = s.base := rfl
@[simp] theorem storeAtFetch_first (s : State) (w : Word) : (storeAtFetch s w).first = s.first := rfl
@[simp] theorem storeAtFetch_last (s : State) (w : Word) : (storeAtFetch s w).last = s.last := rfl
@[simp] theorem storeAtFetch_status (s : State) (w : Word) : (storeAtFetch s w).status = s.status := rfl
@[simp] theorem storeAtFetch_mode (s : State) (w : Word) : (storeAtFetch s w).mode = s.mode := rfl
@[simp] theorem storeAtFetch_carry (s : State) (w : Word) : (storeAtFetch s w).carry = s.carry := rfl
@[simp] theorem storeAtFetch_prevCarry (s : State) (w : Word) : (storeAtFetch s w).prevCarry = s.prevCarry := rfl
@[simp] theorem storeAtFetch_delayedRom (s : State) (w : Word) : (storeAtFetch s w).delayedRom = s.delayedRom := rfl
@[simp] theorem storeAtFetch_displayEnable (s : State) (w : Word) : (storeAtFetch s w).displayEnable = s.displayEnable := rfl
@[simp] theorem storeAtFetch_timer (s : State) (w : Word) : (storeAtFetch s w).timer = s.timer := rfl
@[simp] theorem storeAtFetch_trace (s : State) (w : Word) : (storeAtFetch s w).trace = s.trace := rfl
@[simp] theorem storeAtFetch_keycode (s : State) (w : Word) : (storeAtFetch s w).keycode = s.keycode := rfl
@[simp] theorem storeAtFetch_keydown (s : State) (w : Word) : (storeAtFetch s w).keydown = s.keydown := rfl
@[simp] theorem storeAtFetch_address (s : State) (w : Word) : (storeAtFetch s w).address = s.address := rfl
@[simp] theorem storeAtFetch_params (s : State) (w : Word) : (storeAtFetch s w).params = s.params := rfl
@[simp] theorem storeAtFetch_rom (s : State) (w : Word) : (storeAtFetch s w).rom = s.rom.write (fetchAddress s) w := rfl

/-! ### After an instruction that goes on -/

@[simp] theorem afterSeq_regA (s : State) (c : Bool) : (afterSeq s c).regA = s.regA := rfl
@[simp] theorem afterSeq_regB (s : State) (c : Bool) : (afterSeq s c).regB = s.regB := rfl
@[simp] theorem afterSeq_regC (s : State) (c : Bool) : (afterSeq s c).regC = s.regC := rfl
@[simp] theorem afterSeq_regY (s : State) (c : Bool) : (afterSeq s c).regY = s.regY := rfl
@[simp] theorem afterSeq_regZ (s : State) (c : Bool) : (afterSeq s c).regZ = s.regZ := rfl
@[simp] theorem afterSeq_regT (s : State) (c : Bool) : (afterSeq s c).regT = s.regT := rfl
@[simp] theorem afterSeq_regM (s : State) (c : Bool) : (afterSeq s c).regM = s.regM := rfl
@[simp] theorem afterSeq_regN (s : State) (c : Bool) : (afterSeq s c).regN = s.regN := rfl
@[simp] theorem afterSeq_ram (s : State) (c : Bool) : (afterSeq s c).ram = s.ram := rfl
@[simp] theorem afterSeq_stack (s : State) (c : Bool) : (afterSeq s c).stack = s.stack := rfl
@[simp] theorem afterSeq_sp (s : State) (c : Bool) : (afterSeq s c).sp = s.sp := rfl
@[simp] theorem afterSeq_pc (s : State) (c : Bool) : (afterSeq s c).pc = BitVec.ofNat 12 ((s.pc.toNat + 1) % s.params.romSize) := rfl
@[simp] theorem afterSeq_romBank (s : State) (c : Bool) : (afterSeq s c).romBank = s.romBank := rfl
@[simp] theorem afterSeq_delayedBank (s : State) (c : Bool) : (afterSeq s c).delayedBank = s.delayedBank := rfl
@[simp] theorem afterSeq_p (s : State) (c : Bool) : (afterSeq s c).p = s.p := rfl
@[simp] theorem afterSeq_f (s : State) (c : Bool) : (afterSeq s c).f = s.f := rfl
@[simp] theorem afterSeq_base (s : State) (c : Bool) : (afterSeq s c).base = s.base := rfl
@[simp] theorem afterSeq_first (s : State) (c : Bool) : (afterSeq s c).first = s.first := rfl
@[simp] theorem afterSeq_last (s : State) (c : Bool) : (afterSeq s c).last = s.last := rfl
@[simp] theorem afterSeq_status (s : State) (c : Bool) : (afterSeq s c).status = s.status := rfl
@[simp] theorem afterSeq_mode (s : State) (c : Bool) : (afterSeq s c).mode = s.mode := rfl
@[simp] theorem afterSeq_carry (s : State) (c : Bool) : (afterSeq s c).carry = false := rfl
@[simp] theorem afterSeq_prevCarry (s : State) (c : Bool) : (afterSeq s c).prevCarry = c := rfl
@[simp] theorem afterSeq_delayedRom (s : State) (c : Bool) : (afterSeq s c).delayedRom = s.delayedRom := rfl
@[simp] theorem afterSeq_displayEnable (s : State) (c : Bool) : (afterSeq s c).displayEnable = s.displayEnable := rfl
@[simp] theorem afterSeq_timer (s : State) (c : Bool) : (afterSeq s c).timer = s.timer := rfl
@[simp] theorem afterSeq_trace (s : State) (c : Bool) : (afterSeq s c).trace = s.trace := rfl
@[simp] theorem afterSeq_keycode (s : State) (c : Bool) : (afterSeq s c).keycode = s.keycode := rfl
@[simp] theorem afterSeq_keydown (s : State) (c : Bool) : (afterSeq s c).keydown = s.keydown := rfl
@[simp] theorem afterSeq_address (s : State) (c : Bool) : (afterSeq s c).address = s.address := rfl
@[simp] theorem afterSeq_params (s : State) (c : Bool) : (afterSeq s c).params = s.params := rfl
@[simp] theorem afterSeq_rom (s : State) (c : Bool) : (afterSeq s c).rom = s.rom := rfl

/-! ### After an instruction on a field -/

@[simp] theorem afterField_regA (s : State) (w : Window) (c : Bool) : (afterField s w c).regA = s.regA := rfl
@[simp] theorem afterField_regB (s : State) (w : Window) (c : Bool) : (afterField s w c).regB = s.regB := rfl
@[simp] theorem afterField_regC (s : State) (w : Window) (c : Bool) : (afterField s w c).regC = s.regC := rfl
@[simp] theorem afterField_regY (s : State) (w : Window) (c : Bool) : (afterField s w c).regY = s.regY := rfl
@[simp] theorem afterField_regZ (s : State) (w : Window) (c : Bool) : (afterField s w c).regZ = s.regZ := rfl
@[simp] theorem afterField_regT (s : State) (w : Window) (c : Bool) : (afterField s w c).regT = s.regT := rfl
@[simp] theorem afterField_regM (s : State) (w : Window) (c : Bool) : (afterField s w c).regM = s.regM := rfl
@[simp] theorem afterField_regN (s : State) (w : Window) (c : Bool) : (afterField s w c).regN = s.regN := rfl
@[simp] theorem afterField_ram (s : State) (w : Window) (c : Bool) : (afterField s w c).ram = s.ram := rfl
@[simp] theorem afterField_stack (s : State) (w : Window) (c : Bool) : (afterField s w c).stack = s.stack := rfl
@[simp] theorem afterField_sp (s : State) (w : Window) (c : Bool) : (afterField s w c).sp = s.sp := rfl
@[simp] theorem afterField_pc (s : State) (w : Window) (c : Bool) : (afterField s w c).pc = BitVec.ofNat 12 ((s.pc.toNat + 1) % s.params.romSize) := rfl
@[simp] theorem afterField_romBank (s : State) (w : Window) (c : Bool) : (afterField s w c).romBank = s.romBank := rfl
@[simp] theorem afterField_delayedBank (s : State) (w : Window) (c : Bool) : (afterField s w c).delayedBank = s.delayedBank := rfl
@[simp] theorem afterField_p (s : State) (w : Window) (c : Bool) : (afterField s w c).p = s.p := rfl
@[simp] theorem afterField_f (s : State) (w : Window) (c : Bool) : (afterField s w c).f = s.f := rfl
@[simp] theorem afterField_base (s : State) (w : Window) (c : Bool) : (afterField s w c).base = s.base := rfl
@[simp] theorem afterField_first (s : State) (w : Window) (c : Bool) : (afterField s w c).first = w.first := rfl
@[simp] theorem afterField_last (s : State) (w : Window) (c : Bool) : (afterField s w c).last = w.last := rfl
@[simp] theorem afterField_status (s : State) (w : Window) (c : Bool) : (afterField s w c).status = s.status := rfl
@[simp] theorem afterField_mode (s : State) (w : Window) (c : Bool) : (afterField s w c).mode = s.mode := rfl
@[simp] theorem afterField_carry (s : State) (w : Window) (c : Bool) : (afterField s w c).carry = false := rfl
@[simp] theorem afterField_prevCarry (s : State) (w : Window) (c : Bool) : (afterField s w c).prevCarry = c := rfl
@[simp] theorem afterField_delayedRom (s : State) (w : Window) (c : Bool) : (afterField s w c).delayedRom = s.delayedRom := rfl
@[simp] theorem afterField_displayEnable (s : State) (w : Window) (c : Bool) : (afterField s w c).displayEnable = s.displayEnable := rfl
@[simp] theorem afterField_timer (s : State) (w : Window) (c : Bool) : (afterField s w c).timer = s.timer := rfl
@[simp] theorem afterField_trace (s : State) (w : Window) (c : Bool) : (afterField s w c).trace = s.trace := rfl
@[simp] theorem afterField_keycode (s : State) (w : Window) (c : Bool) : (afterField s w c).keycode = s.keycode := rfl
@[simp] theorem afterField_keydown (s : State) (w : Window) (c : Bool) : (afterField s w c).keydown = s.keydown := rfl
@[simp] theorem afterField_address (s : State) (w : Window) (c : Bool) : (afterField s w c).address = s.address := rfl
@[simp] theorem afterField_params (s : State) (w : Window) (c : Bool) : (afterField s w c).params = s.params := rfl
@[simp] theorem afterField_rom (s : State) (w : Window) (c : Bool) : (afterField s w c).rom = s.rom := rfl

/-! ### After a jump -/

@[simp] theorem afterJump_regA (s : State) (target : Pc) : (afterJump s target).regA = s.regA := rfl
@[simp] theorem afterJump_regB (s : State) (target : Pc) : (afterJump s target).regB = s.regB := rfl
@[simp] theorem afterJump_regC (s : State) (target : Pc) : (afterJump s target).regC = s.regC := rfl
@[simp] theorem afterJump_regY (s : State) (target : Pc) : (afterJump s target).regY = s.regY := rfl
@[simp] theorem afterJump_regZ (s : State) (target : Pc) : (afterJump s target).regZ = s.regZ := rfl
@[simp] theorem afterJump_regT (s : State) (target : Pc) : (afterJump s target).regT = s.regT := rfl
@[simp] theorem afterJump_regM (s : State) (target : Pc) : (afterJump s target).regM = s.regM := rfl
@[simp] theorem afterJump_regN (s : State) (target : Pc) : (afterJump s target).regN = s.regN := rfl
@[simp] theorem afterJump_ram (s : State) (target : Pc) : (afterJump s target).ram = s.ram := rfl
@[simp] theorem afterJump_stack (s : State) (target : Pc) : (afterJump s target).stack = s.stack := rfl
@[simp] theorem afterJump_sp (s : State) (target : Pc) : (afterJump s target).sp = s.sp := rfl
@[simp] theorem afterJump_pc (s : State) (target : Pc) : (afterJump s target).pc = target := rfl
@[simp] theorem afterJump_romBank (s : State) (target : Pc) : (afterJump s target).romBank = s.romBank := rfl
@[simp] theorem afterJump_delayedBank (s : State) (target : Pc) : (afterJump s target).delayedBank = s.delayedBank := rfl
@[simp] theorem afterJump_p (s : State) (target : Pc) : (afterJump s target).p = s.p := rfl
@[simp] theorem afterJump_f (s : State) (target : Pc) : (afterJump s target).f = s.f := rfl
@[simp] theorem afterJump_base (s : State) (target : Pc) : (afterJump s target).base = s.base := rfl
@[simp] theorem afterJump_first (s : State) (target : Pc) : (afterJump s target).first = s.first := rfl
@[simp] theorem afterJump_last (s : State) (target : Pc) : (afterJump s target).last = s.last := rfl
@[simp] theorem afterJump_status (s : State) (target : Pc) : (afterJump s target).status = s.status := rfl
@[simp] theorem afterJump_mode (s : State) (target : Pc) : (afterJump s target).mode = s.mode := rfl
@[simp] theorem afterJump_carry (s : State) (target : Pc) : (afterJump s target).carry = false := rfl
@[simp] theorem afterJump_prevCarry (s : State) (target : Pc) : (afterJump s target).prevCarry = s.carry := rfl
@[simp] theorem afterJump_delayedRom (s : State) (target : Pc) : (afterJump s target).delayedRom = s.delayedRom := rfl
@[simp] theorem afterJump_displayEnable (s : State) (target : Pc) : (afterJump s target).displayEnable = s.displayEnable := rfl
@[simp] theorem afterJump_timer (s : State) (target : Pc) : (afterJump s target).timer = s.timer := rfl
@[simp] theorem afterJump_trace (s : State) (target : Pc) : (afterJump s target).trace = s.trace := rfl
@[simp] theorem afterJump_keycode (s : State) (target : Pc) : (afterJump s target).keycode = s.keycode := rfl
@[simp] theorem afterJump_keydown (s : State) (target : Pc) : (afterJump s target).keydown = s.keydown := rfl
@[simp] theorem afterJump_address (s : State) (target : Pc) : (afterJump s target).address = s.address := rfl
@[simp] theorem afterJump_params (s : State) (target : Pc) : (afterJump s target).params = s.params := rfl
@[simp] theorem afterJump_rom (s : State) (target : Pc) : (afterJump s target).rom = s.rom := rfl

/-! ### Writing a register -/

@[simp] theorem setReg_ram (s : State) (X : RegName) (r : Reg) : (s.setReg X r).ram = s.ram := by cases X <;> rfl
@[simp] theorem setReg_stack (s : State) (X : RegName) (r : Reg) : (s.setReg X r).stack = s.stack := by cases X <;> rfl
@[simp] theorem setReg_sp (s : State) (X : RegName) (r : Reg) : (s.setReg X r).sp = s.sp := by cases X <;> rfl
@[simp] theorem setReg_pc (s : State) (X : RegName) (r : Reg) : (s.setReg X r).pc = s.pc := by cases X <;> rfl
@[simp] theorem setReg_romBank (s : State) (X : RegName) (r : Reg) : (s.setReg X r).romBank = s.romBank := by cases X <;> rfl
@[simp] theorem setReg_delayedBank (s : State) (X : RegName) (r : Reg) : (s.setReg X r).delayedBank = s.delayedBank := by cases X <;> rfl
@[simp] theorem setReg_p (s : State) (X : RegName) (r : Reg) : (s.setReg X r).p = s.p := by cases X <;> rfl
@[simp] theorem setReg_f (s : State) (X : RegName) (r : Reg) : (s.setReg X r).f = s.f := by cases X <;> rfl
@[simp] theorem setReg_base (s : State) (X : RegName) (r : Reg) : (s.setReg X r).base = s.base := by cases X <;> rfl
@[simp] theorem setReg_first (s : State) (X : RegName) (r : Reg) : (s.setReg X r).first = s.first := by cases X <;> rfl
@[simp] theorem setReg_last (s : State) (X : RegName) (r : Reg) : (s.setReg X r).last = s.last := by cases X <;> rfl
@[simp] theorem setReg_status (s : State) (X : RegName) (r : Reg) : (s.setReg X r).status = s.status := by cases X <;> rfl
@[simp] theorem setReg_mode (s : State) (X : RegName) (r : Reg) : (s.setReg X r).mode = s.mode := by cases X <;> rfl
@[simp] theorem setReg_carry (s : State) (X : RegName) (r : Reg) : (s.setReg X r).carry = s.carry := by cases X <;> rfl
@[simp] theorem setReg_prevCarry (s : State) (X : RegName) (r : Reg) : (s.setReg X r).prevCarry = s.prevCarry := by cases X <;> rfl
@[simp] theorem setReg_delayedRom (s : State) (X : RegName) (r : Reg) : (s.setReg X r).delayedRom = s.delayedRom := by cases X <;> rfl
@[simp] theorem setReg_displayEnable (s : State) (X : RegName) (r : Reg) : (s.setReg X r).displayEnable = s.displayEnable := by cases X <;> rfl
@[simp] theorem setReg_timer (s : State) (X : RegName) (r : Reg) : (s.setReg X r).timer = s.timer := by cases X <;> rfl
@[simp] theorem setReg_trace (s : State) (X : RegName) (r : Reg) : (s.setReg X r).trace = s.trace := by cases X <;> rfl
@[simp] theorem setReg_keycode (s : State) (X : RegName) (r : Reg) : (s.setReg X r).keycode = s.keycode := by cases X <;> rfl
@[simp] theorem setReg_keydown (s : State) (X : RegName) (r : Reg) : (s.setReg X r).keydown = s.keydown := by cases X <;> rfl
@[simp] theorem setReg_address (s : State) (X : RegName) (r : Reg) : (s.setReg X r).address = s.address := by cases X <;> rfl
@[simp] theorem setReg_params (s : State) (X : RegName) (r : Reg) : (s.setReg X r).params = s.params := by cases X <;> rfl
@[simp] theorem setReg_rom (s : State) (X : RegName) (r : Reg) : (s.setReg X r).rom = s.rom := by cases X <;> rfl
@[simp] theorem setReg_regA (s : State) (X : RegName) (r : Reg) :
    (s.setReg X r).regA = if X = .A then r else s.regA := by cases X <;> rfl
@[simp] theorem setReg_regB (s : State) (X : RegName) (r : Reg) :
    (s.setReg X r).regB = if X = .B then r else s.regB := by cases X <;> rfl
@[simp] theorem setReg_regC (s : State) (X : RegName) (r : Reg) :
    (s.setReg X r).regC = if X = .C then r else s.regC := by cases X <;> rfl
@[simp] theorem setReg_regY (s : State) (X : RegName) (r : Reg) :
    (s.setReg X r).regY = if X = .Y then r else s.regY := by cases X <;> rfl
@[simp] theorem setReg_regZ (s : State) (X : RegName) (r : Reg) :
    (s.setReg X r).regZ = if X = .Z then r else s.regZ := by cases X <;> rfl
@[simp] theorem setReg_regT (s : State) (X : RegName) (r : Reg) :
    (s.setReg X r).regT = if X = .T then r else s.regT := by cases X <;> rfl
@[simp] theorem setReg_regM (s : State) (X : RegName) (r : Reg) :
    (s.setReg X r).regM = if X = .M then r else s.regM := by cases X <;> rfl
@[simp] theorem setReg_regN (s : State) (X : RegName) (r : Reg) :
    (s.setReg X r).regN = if X = .N then r else s.regN := by cases X <;> rfl

/-- The register file: a write is read back, and no other register moves. -/
@[simp] theorem getReg_setReg (s : State) (X X' : RegName) (r : Reg) :
    (s.setReg X r).getReg X' = if X' = X then r else s.getReg X' := by
  cases X <;> cases X' <;> rfl

@[simp] theorem getReg_setWindow (s : State) (w : Window) (X : RegName) : (s.setWindow w).getReg X = s.getReg X := by
  cases X <;> rfl

@[simp] theorem getReg_advance (s : State) (n : Next) (X : RegName) : (advance n s).getReg X = s.getReg X := by
  cases X <;> rfl

@[simp] theorem operand_setWindow (s : State) (w : Window) (o : Option RegName) :
    (s.setWindow w).operand o = s.operand o := by
  cases o <;> simp [State.operand]

@[simp] theorem getReg_afterField (s : State) (w : Window) (c : Bool) (X : RegName) :
    (afterField s w c).getReg X = s.getReg X := by
  cases X <;> rfl

@[simp] theorem getReg_A (s : State) : s.getReg .A = s.regA := rfl
@[simp] theorem getReg_B (s : State) : s.getReg .B = s.regB := rfl
@[simp] theorem getReg_C (s : State) : s.getReg .C = s.regC := rfl
@[simp] theorem getReg_Y (s : State) : s.getReg .Y = s.regY := rfl
@[simp] theorem getReg_Z (s : State) : s.getReg .Z = s.regZ := rfl
@[simp] theorem getReg_T (s : State) : s.getReg .T = s.regT := rfl
@[simp] theorem getReg_M (s : State) : s.getReg .M = s.regM := rfl
@[simp] theorem getReg_N (s : State) : s.getReg .N = s.regN := rfl

end Sys2Proof.Machine
end

