-- ==== Sys2Proof/Laws/Fields.lean ====
section
/-!
SUPPORT. Laws/Fields.lean: registers as 14 nibbles, the field windows, and what the digit-serial adder and subtracter
compute nibble by nibble.
-/

namespace Sys2Proof

/-- A built register reads, at each of its nibbles, what it was built from. -/
@[simp] theorem Reg.nib_build (f : Nat → Nibble) {i : Nat} (h : i < 14) : (Reg.build f).nib i = f i := by
  interval_cases i <;> rfl

@[simp] theorem Reg.nib_zero (i : Nat) : Reg.zero.nib i = 0 := by
  by_cases h : i < 14
  · simp [Reg.zero, h]
  · simp only [Reg.zero, Reg.build, Reg.nib]
    rw [List.getD_eq_default]
    simpa using h

/-- Two registers that agree on their 14 nibbles are equal. -/
theorem Reg.ext_nib {x y : Reg} (h : ∀ i, i < 14 → x.nib i = y.nib i) : x = y := by
  apply Vector.ext
  intro i hi
  have := h i hi
  simpa [Reg.nib, hi] using this

/-- A register is built from its own nibbles. -/
theorem Reg.build_nib (r : Reg) : Reg.build r.nib = r := Reg.ext_nib fun i h => by simp [h]

namespace Machine

/-! ### Windows -/

theorem Window.has_iff (w : Window) (i : Nat) : w.has i = true ↔ w.first ≤ i ∧ i ≤ w.last := by
  simp [Window.has]

/-- Every window an instruction gets is in order and inside the register, and only P and WP depend on the pointer
(R96). -/
theorem window_bounds {fs : FieldMod} {p : Nat} {w : Window} (h : window fs p = some w) :
    w.first ≤ w.last ∧ w.last ≤ 13 := by
  cases fs <;> simp only [window, Option.some.injEq] at h
  case p | wp =>
    split at h
    · cases h
    · cases h
      simp only [nibbles] at *
      omega
  all_goals
    subst h
    decide

/-! ### Writing a field -/

/-- A field write takes the new nibble inside the window and the old one outside (R120). -/
theorem nib_overField (w : Window) (old : Reg) (f : Nat → Nibble) {i : Nat} (h : i < 14) :
    (overField w old f).nib i = if w.first ≤ i ∧ i ≤ w.last then f i else old.nib i := by
  simp [overField, h, Window.has_iff]

/-- Writing a field with what it holds changes nothing. -/
theorem overField_self (w : Window) (r : Reg) : overField w r r.nib = r :=
  Reg.ext_nib fun i h => by simp [nib_overField _ _ _ h]

/-- Over window W the whole register is replaced (R121). -/
theorem overField_whole (old r : Reg) : overField wholeWindow old r.nib = r :=
  Reg.ext_nib fun i h => by rw [nib_overField _ _ _ h]; simp [wholeWindow]; omega

theorem fieldEq_iff (w : Window) (hw : w.last ≤ 13) (x y : Reg) :
    fieldEq w x y = true ↔ ∀ i, w.first ≤ i → i ≤ w.last → x.nib i = y.nib i := by
  constructor
  · intro h i h1 h2
    have := List.all_eq_true.mp h i (List.mem_range.mpr (by simp only [nibbles]; omega))
    simpa [Window.has, h1, h2] using this
  · intro h
    refine List.all_eq_true.mpr fun i _ => ?_
    by_cases hi : w.first ≤ i ∧ i ≤ w.last
    · simp [h i hi.1 hi.2]
    · simp only [Bool.or_eq_true, Bool.not_eq_true', ← Bool.not_eq_true, Window.has_iff]
      exact .inl hi

/-! ### The adder and the subtracter -/

/-- The adder's result register and carries are the digit-serial sum of R125. -/
theorem serialSum_add (P : Params) (base : Radix) (w : Window) (hw : w.last ≤ 13) (x y old : Reg) (cin : Bool) :
    SerialSum P base w x y cin (fun k => addCarry base x y cin w.first (k - w.first)) old
      (overField w old (addDigit P base w x y cin)) where
  carryIn := by simp [addCarry]
  carries k h1 h2 := by
    have e : k + 1 - w.first = (k - w.first) + 1 := by omega
    have f : w.first + (k - w.first) = k := by omega
    simp [e, addCarry, digitSum, f]
  digits k h1 h2 := by
    have e : k + 1 - w.first = (k - w.first) + 1 := by omega
    have f : w.first + (k - w.first) = k := by omega
    rw [nib_overField _ _ _ (by omega)]
    simp [h1, h2, addDigit, sumDigit, digitSum, e, addCarry, f]
  outside k hk hout := by
    rw [nib_overField _ _ _ hk]; simp [hout]

/-- The subtracter's result register and borrows are the digit-serial difference of R127. -/
theorem serialDifference_sub (P : Params) (base : Radix) (w : Window) (hw : w.last ≤ 13) (x y old : Reg) (cin : Bool) :
    SerialDifference P base w x y cin (fun k => subBorrow x y cin w.first (k - w.first)) old
      (overField w old (subDigit P base w x y cin)) where
  borrowIn := by simp [subBorrow]
  borrows k h1 h2 := by
    have e : k + 1 - w.first = (k - w.first) + 1 := by omega
    have f : w.first + (k - w.first) = k := by omega
    simp [e, subBorrow, subtrahend, f]
  digits k h1 h2 := by
    have e : k + 1 - w.first = (k - w.first) + 1 := by omega
    have f : w.first + (k - w.first) = k := by omega
    rw [nib_overField _ _ _ (by omega)]
    simp only [h1, h2, and_self, if_true, subDigit, differenceDigit, subtrahend, e, subBorrow, f, decide_eq_true_eq]
    split_ifs with h
    · exact if_pos h
    · exact if_neg h
  outside k hk hout := by
    rw [nib_overField _ _ _ hk]; simp [hout]

/-- The carry out of the field is the carry into the nibble after it (R125). -/
theorem addCarryOut_eq (base : Radix) (w : Window) (x y : Reg) (cin : Bool) :
    addCarryOut base w x y cin = addCarry base x y cin w.first (w.last + 1 - w.first) := rfl

/-- The borrow out of the field is the borrow into the nibble after it (R127). -/
theorem subBorrowOut_eq (w : Window) (x y : Reg) (cin : Bool) :
    subBorrowOut w x y cin = subBorrow x y cin w.first (w.last + 1 - w.first) := rfl

end Machine
end Sys2Proof
end

