-- ==== Sys2Proof/Laws/Ops.lean ====
section
/-!
SUPPORT. Laws/Ops.lean: what each shared operation can do, once: the ROM image, raising a fault, ending an
instruction, the shape of the arithmetic and the whole-register instructions, the stack, the tick.
-/

namespace Sys2Proof.Machine

/-! ### The ROM image: canonical form -/

theorem Memory.wfFrom_mono {lo lo' : Nat} {m : Memory} (h : lo' ≤ lo) (hw : m.wfFrom lo = true) :
    m.wfFrom lo' = true := by
  cases m with
  | nil => rfl
  | cons c rest =>
    obtain ⟨a, v⟩ := c
    simp only [Memory.wfFrom, Bool.and_eq_true, decide_eq_true_eq] at hw ⊢
    exact ⟨⟨by omega, hw.1.2⟩, hw.2⟩

theorem Memory.wfFrom_cons {lo a : Nat} {v : Word} {rest : Memory} (h : lo ≤ a) (hw : rest.wfFrom (a + 1) = true) :
    (Memory.cons a v rest).wfFrom lo = true := by
  unfold Memory.cons
  split
  · exact Memory.wfFrom_mono (by omega) hw
  · simp_all [Memory.wfFrom]

theorem Memory.wfFrom_write {m : Memory} {lo a : Nat} {v : Word} (h : lo ≤ a) (hw : m.wfFrom lo = true) :
    (m.write a v).wfFrom lo = true := by
  induction m generalizing lo with
  | nil => exact Memory.wfFrom_cons h rfl
  | cons c rest ih =>
    obtain ⟨b, u⟩ := c
    simp only [Memory.wfFrom, Bool.and_eq_true, decide_eq_true_eq] at hw
    obtain ⟨⟨h1, h2⟩, h3⟩ := hw
    unfold Memory.write
    split
    · exact Memory.wfFrom_cons h (by simp [Memory.wfFrom]; exact ⟨⟨by omega, by simpa using h2⟩, h3⟩)
    · split
      · subst_vars; exact Memory.wfFrom_cons h h3
      · simp only [Memory.wfFrom, Bool.and_eq_true, decide_eq_true_eq]
        exact ⟨⟨h1, h2⟩, ih (by omega) h3⟩

/-- Storing a word keeps the canonical form. -/
theorem Memory.wf_write {m : Memory} (a : Nat) (v : Word) (hw : m.wf = true) : (m.write a v).wf = true :=
  Memory.wfFrom_write (Nat.zero_le a) hw

theorem Memory.wfFrom_ofCells (a : Nat) (cells : List (BitVec 16)) : (Memory.ofCells a cells).wfFrom a = true := by
  induction cells generalizing a with
  | nil => rfl
  | cons c rest ih => exact Memory.wfFrom_cons (le_refl a) (ih (a + 1))

/-- An image made from a list of cells is in canonical form. -/
theorem Memory.wf_ofCells (cells : List (BitVec 16)) : (Memory.ofCells 0 cells).wf = true :=
  Memory.wfFrom_ofCells 0 cells

/-! ### The ROM image: reading -/

/-- Below its first address an image reads blank. -/
theorem Memory.read_below {m : Memory} {lo a : Nat} (hw : m.wfFrom lo = true) (h : a < lo) : m.read a = romBlank := by
  cases m with
  | nil => rfl
  | cons c rest =>
    obtain ⟨b, v⟩ := c
    simp only [Memory.wfFrom, Bool.and_eq_true, decide_eq_true_eq] at hw
    unfold Memory.read
    rw [if_neg (by omega), if_pos (by omega)]

theorem Memory.read_cons {a b lo : Nat} {v : Word} {rest : Memory} (hw : rest.wfFrom lo = true) (h : a < lo) :
    (Memory.cons a v rest).read b = if b = a then v else if b < a then romBlank else rest.read b := by
  unfold Memory.cons
  split
  · subst_vars
    split
    · subst_vars; exact Memory.read_below hw h
    · split
      · exact Memory.read_below hw (by omega)
      · rfl
  · simp only [Memory.read, eq_comm]

/-- A store is read back, and every other address reads as before. -/
theorem Memory.read_write {m : Memory} (hw : m.wf = true) (a b : Nat) (v : Word) :
    (m.write a v).read b = if b = a then v else m.read b := by
  suffices h : ∀ (m : Memory) (lo : Nat), m.wfFrom lo = true →
      (m.write a v).read b = if b = a then v else m.read b from h m 0 hw
  intro m
  induction m with
  | nil =>
    intro lo _
    rw [Memory.write, Memory.read_cons (lo := a + 1) rfl (by omega)]
    simp [Memory.read]
  | cons c rest ih =>
    obtain ⟨d, u⟩ := c
    intro lo hwf
    have hwf' := hwf
    simp only [Memory.wfFrom, Bool.and_eq_true, decide_eq_true_eq] at hwf'
    obtain ⟨⟨h1, h2⟩, h3⟩ := hwf'
    unfold Memory.write
    split
    · rw [Memory.read_cons (lo := d) (by simp only [Memory.wfFrom, Bool.and_eq_true, decide_eq_true_eq]; exact ⟨⟨le_refl d, h2⟩, h3⟩) ‹_›]
      split
      · rfl
      · split
        · rw [Memory.read, if_neg (by omega), if_pos (by omega)]
        · rfl
    · split
      · subst_vars
        rw [Memory.read_cons h3 (by omega)]
        by_cases hb : b = d
        · simp [hb]
        · simp [Memory.read, hb, Ne.symm hb]
      · by_cases hd : d = b
        · subst hd
          simp [Memory.read]
          intro h; omega
        · simp only [Memory.read, hd, if_false]
          split
          · rw [if_neg (by omega)]
          · exact ih (d + 1) h3

/-! ### Addresses -/

/-- An address within the window is what its number says, for every size R6 allows. -/
theorem wrapPc_toNat {P : Params} (h : P.wf) (v : Nat) : (wrapPc P v).toNat = v % P.romSize := by
  have h1 : 256 ≤ P.romSize := h.2.1
  have h2 : P.romSize ≤ 4096 := h.2.2.1
  have : v % P.romSize < P.romSize := Nat.mod_lt _ (by omega)
  simp only [wrapPc, BitVec.toNat_ofNat]
  omega

theorem wrapPc_lt {P : Params} (h : P.wf) (v : Nat) : (wrapPc P v).toNat < P.romSize := by
  rw [wrapPc_toNat h]
  exact Nat.mod_lt _ (by have := h.2.1; omega)

/-- A page and an offset make the address `page * 256 + t` (R275). -/
theorem pageAddress_toNat (page : BitVec 4) (t : BitVec 8) :
    (pageAddress page t).toNat = page.toNat * 256 + t.toNat := by
  have := t.isLt
  simp only [pageAddress, BitVec.toNat_append, Nat.shiftLeft_eq]
  rw [Nat.mul_comm page.toNat, ← Nat.two_pow_add_eq_or_of_lt (i := 8) (by omega)]

theorem pageOf_toNat (pc : Pc) : (pageOf pc).toNat = pc.toNat / 256 := by
  have := pc.isLt
  simp only [pageOf, BitVec.extractLsb'_toNat, Nat.shiftRight_eq_div_pow]
  omega

theorem offsetOf_toNat (pc : Pc) : (offsetOf pc).toNat = pc.toNat % 256 := by
  simp [offsetOf, BitVec.extractLsb'_toNat]

/-! ### Raising and ending -/

@[simp] theorem raise_ne_next (mk : FaultRecord → Fault) (s t : State) : raise mk s ≠ .next t := by
  simp [raise]

@[simp] theorem raise_ne_refused (mk : FaultRecord → Fault) (s : State) (r : Refusal) : raise mk s ≠ .refused r := by
  simp [raise]

theorem finish_eq_next {s t : State} : finish s = .next t ↔ t = advance .seq s := by
  simp [finish, eq_comm]

theorem finishAt_eq_next {target : Pc} {s t : State} :
    finishAt target s = .next t ↔ t = advance (.jump target) s := by
  simp [finishAt, eq_comm]

@[simp] theorem finish_ne_fault (s : State) (f : Fault) : finish s ≠ .fault f := by simp [finish]
@[simp] theorem finish_ne_refused (s : State) (r : Refusal) : finish s ≠ .refused r := by simp [finish]
@[simp] theorem finishAt_ne_fault (target : Pc) (s : State) (f : Fault) : finishAt target s ≠ .fault f := by
  simp [finishAt]
@[simp] theorem finishAt_ne_refused (target : Pc) (s : State) (r : Refusal) : finishAt target s ≠ .refused r := by
  simp [finishAt]

/-- What an arithmetic instruction can do (R150): its window exists and it ends with the advance. -/
theorem arithmetic_eq_next {fs : FieldMod} {op : Window → State → State} {s t : State} :
    arithmetic fs op s = .next t ↔ ∃ w, window fs s.p = some w ∧ t = advance .seq (op w (s.setWindow w)) := by
  unfold arithmetic
  split <;> simp_all [finish_eq_next]

/-- It can also fault, when its field modifier has no window for the pointer (R342), and only so. -/
theorem arithmetic_eq_fault {fs : FieldMod} {op : Window → State → State} {s : State} {f : Fault} :
    arithmetic fs op s = .fault f ↔
      window fs s.p = none ∧ f = .pointerWindow ⟨s.romBank, s.pc, fetchedWord s⟩ := by
  unfold arithmetic
  split
  · rename_i h
    simp [h, raise, eq_comm]
  · rename_i h
    simp [h]

@[simp] theorem arithmetic_ne_refused (fs : FieldMod) (op : Window → State → State) (s : State) (r : Refusal) :
    arithmetic fs op s ≠ .refused r := by
  unfold arithmetic
  split <;> simp

/-- What a whole-register instruction can do (R121): window W, its operation, the advance. -/
theorem wholeRegister_eq_next {op : State → State} {s t : State} :
    wholeRegister op s = .next t ↔ t = advance .seq (op (s.setWindow wholeWindow)) := by
  simp [wholeRegister, finish_eq_next]

@[simp] theorem wholeRegister_ne_fault (op : State → State) (s : State) (f : Fault) : wholeRegister op s ≠ .fault f := by
  simp [wholeRegister]
@[simp] theorem wholeRegister_ne_refused (op : State → State) (s : State) (r : Refusal) :
    wholeRegister op s ≠ .refused r := by
  simp [wholeRegister]

/-! ### The return-address stack -/

theorem popSlot_lt {s : State} (h : 1 ≤ s.params.stackSize) : popSlot s < s.params.stackSize :=
  Nat.mod_lt _ (by omega)

/-- After a push, the slot a pop reads is the one pushed to (R289). -/
theorem popSlot_push (v : Pc) {s : State} (h : s.sp < s.params.stackSize) : popSlot (push v s) = s.sp := by
  simp only [popSlot, push_sp, push_params]
  by_cases e : s.sp + 1 = s.params.stackSize
  · rw [e, Nat.mod_self, Nat.zero_add, Nat.mod_eq_of_lt (by omega)]; omega
  · rw [Nat.mod_eq_of_lt (a := s.sp + 1) (by omega), show s.sp + 1 + (s.params.stackSize - 1) = s.sp + s.params.stackSize by omega,
      Nat.add_mod_right, Nat.mod_eq_of_lt h]

/-! ### The tick -/

/-- What a tick that goes on did: it fetched inside the ROM, decoded an instruction and executed it (R270). -/
theorem step_eq_next {s t : State} :
    step s = .next t ↔
      fetchAddress s < romWords s.params ∧ ∃ i, decode s.params (fetchedWord s) = .ok i ∧ exec i s = .next t := by
  unfold step
  split
  · simp [raiseFetch]; omega
  · split <;> simp_all

end Sys2Proof.Machine
end

