-- ==== Sys2Proof/Laws/PerInstr.lean ====
section
/-!
SUPPORT. Laws/PerInstr.lean: the per-instruction family `FormatRebuilds`: the encoder's format of an instruction, read
back by the decoder's tables, is that instruction, for every operand (R82 to R90, R94).
-/

namespace Sys2Proof.Laws

/-- The operation and operands of the format rebuild the instruction, for every selector the operand admits. -/
def FormatRebuilds.Statement (i : Instr) : Prop :=
  match i.format with
  | .arith op fs => op.toInstr (FieldMod.ofBits fs.bits) = i
  | .special op sel => ∀ k, sel.admits k = true → op.toInstr k = i
  | .jsb t => i = .jsb t
  | .branch t => i = .ifNcGoto t

theorem FormatRebuilds.zeroA (fs : FieldMod) : FormatRebuilds.Statement (.zeroA fs) := by
  cases fs <;> rfl

theorem FormatRebuilds.zeroB (fs : FieldMod) : FormatRebuilds.Statement (.zeroB fs) := by
  cases fs <;> rfl

theorem FormatRebuilds.exchAB (fs : FieldMod) : FormatRebuilds.Statement (.exchAB fs) := by
  cases fs <;> rfl

theorem FormatRebuilds.copyAB (fs : FieldMod) : FormatRebuilds.Statement (.copyAB fs) := by
  cases fs <;> rfl

theorem FormatRebuilds.exchAC (fs : FieldMod) : FormatRebuilds.Statement (.exchAC fs) := by
  cases fs <;> rfl

theorem FormatRebuilds.copyCA (fs : FieldMod) : FormatRebuilds.Statement (.copyCA fs) := by
  cases fs <;> rfl

theorem FormatRebuilds.copyBC (fs : FieldMod) : FormatRebuilds.Statement (.copyBC fs) := by
  cases fs <;> rfl

theorem FormatRebuilds.exchBC (fs : FieldMod) : FormatRebuilds.Statement (.exchBC fs) := by
  cases fs <;> rfl

theorem FormatRebuilds.zeroC (fs : FieldMod) : FormatRebuilds.Statement (.zeroC fs) := by
  cases fs <;> rfl

theorem FormatRebuilds.addABA (fs : FieldMod) : FormatRebuilds.Statement (.addABA fs) := by
  cases fs <;> rfl

theorem FormatRebuilds.addACA (fs : FieldMod) : FormatRebuilds.Statement (.addACA fs) := by
  cases fs <;> rfl

theorem FormatRebuilds.addCCC (fs : FieldMod) : FormatRebuilds.Statement (.addCCC fs) := by
  cases fs <;> rfl

theorem FormatRebuilds.addACC (fs : FieldMod) : FormatRebuilds.Statement (.addACC fs) := by
  cases fs <;> rfl

theorem FormatRebuilds.incA (fs : FieldMod) : FormatRebuilds.Statement (.incA fs) := by
  cases fs <;> rfl

theorem FormatRebuilds.shlA (fs : FieldMod) : FormatRebuilds.Statement (.shlA fs) := by
  cases fs <;> rfl

theorem FormatRebuilds.incC (fs : FieldMod) : FormatRebuilds.Statement (.incC fs) := by
  cases fs <;> rfl

theorem FormatRebuilds.subABA (fs : FieldMod) : FormatRebuilds.Statement (.subABA fs) := by
  cases fs <;> rfl

theorem FormatRebuilds.subACC (fs : FieldMod) : FormatRebuilds.Statement (.subACC fs) := by
  cases fs <;> rfl

theorem FormatRebuilds.decA (fs : FieldMod) : FormatRebuilds.Statement (.decA fs) := by
  cases fs <;> rfl

theorem FormatRebuilds.decC (fs : FieldMod) : FormatRebuilds.Statement (.decC fs) := by
  cases fs <;> rfl

theorem FormatRebuilds.negC (fs : FieldMod) : FormatRebuilds.Statement (.negC fs) := by
  cases fs <;> rfl

theorem FormatRebuilds.complC (fs : FieldMod) : FormatRebuilds.Statement (.complC fs) := by
  cases fs <;> rfl

theorem FormatRebuilds.ifBZero (fs : FieldMod) : FormatRebuilds.Statement (.ifBZero fs) := by
  cases fs <;> rfl

theorem FormatRebuilds.ifCZero (fs : FieldMod) : FormatRebuilds.Statement (.ifCZero fs) := by
  cases fs <;> rfl

theorem FormatRebuilds.ifAGeC (fs : FieldMod) : FormatRebuilds.Statement (.ifAGeC fs) := by
  cases fs <;> rfl

theorem FormatRebuilds.ifAGeB (fs : FieldMod) : FormatRebuilds.Statement (.ifAGeB fs) := by
  cases fs <;> rfl

theorem FormatRebuilds.ifANonzero (fs : FieldMod) : FormatRebuilds.Statement (.ifANonzero fs) := by
  cases fs <;> rfl

theorem FormatRebuilds.ifCNonzero (fs : FieldMod) : FormatRebuilds.Statement (.ifCNonzero fs) := by
  cases fs <;> rfl

theorem FormatRebuilds.subACA (fs : FieldMod) : FormatRebuilds.Statement (.subACA fs) := by
  cases fs <;> rfl

theorem FormatRebuilds.shrA (fs : FieldMod) : FormatRebuilds.Statement (.shrA fs) := by
  cases fs <;> rfl

theorem FormatRebuilds.shrB (fs : FieldMod) : FormatRebuilds.Statement (.shrB fs) := by
  cases fs <;> rfl

theorem FormatRebuilds.shrC (fs : FieldMod) : FormatRebuilds.Statement (.shrC fs) := by
  cases fs <;> rfl

theorem FormatRebuilds.jsb (t : BitVec 8) : FormatRebuilds.Statement (.jsb t) := rfl

theorem FormatRebuilds.ifNcGoto (t : BitVec 8) : FormatRebuilds.Statement (.ifNcGoto t) := rfl

theorem FormatRebuilds.nop : FormatRebuilds.Statement .nop := fun _ _ => rfl

theorem FormatRebuilds.keysToRom : FormatRebuilds.Statement .keysToRom := fun _ _ => rfl

theorem FormatRebuilds.binary : FormatRebuilds.Statement .binary := fun _ _ => rfl

theorem FormatRebuilds.decP : FormatRebuilds.Statement .decP := fun _ _ => rfl

theorem FormatRebuilds.incP : FormatRebuilds.Statement .incP := fun _ _ => rfl

theorem FormatRebuilds.ret : FormatRebuilds.Statement .ret := fun _ _ => rfl

theorem FormatRebuilds.selectRom (n : BitVec 4) : FormatRebuilds.Statement (.selectRom n) := fun _ h => congrArg Instr.selectRom (eq_of_beq h).symm

theorem FormatRebuilds.cToDataAddress : FormatRebuilds.Statement .cToDataAddress := fun _ _ => rfl

theorem FormatRebuilds.clearDataRegisters : FormatRebuilds.Statement .clearDataRegisters := fun _ _ => rfl

theorem FormatRebuilds.woodstock : FormatRebuilds.Statement .woodstock := fun _ _ => rfl

theorem FormatRebuilds.setS (n : BitVec 4) : FormatRebuilds.Statement (.setS n) := fun _ h => congrArg Instr.setS (eq_of_beq h).symm

theorem FormatRebuilds.ifS1 (n : BitVec 4) : FormatRebuilds.Statement (.ifS1 n) := fun _ h => congrArg Instr.ifS1 (eq_of_beq h).symm

theorem FormatRebuilds.ifPEq (n : Nat) : FormatRebuilds.Statement (.ifPEq n) := fun _ h => congrArg Instr.ifPEq (eq_of_beq h)

theorem FormatRebuilds.delayedSelectRom (n : BitVec 4) : FormatRebuilds.Statement (.delayedSelectRom n) := fun _ h => congrArg Instr.delayedSelectRom (eq_of_beq h).symm

theorem FormatRebuilds.clearRegisters : FormatRebuilds.Statement .clearRegisters := fun _ _ => rfl

theorem FormatRebuilds.clearS : FormatRebuilds.Statement .clearS := fun _ _ => rfl

theorem FormatRebuilds.displayToggle : FormatRebuilds.Statement .displayToggle := fun _ _ => rfl

theorem FormatRebuilds.displayOff : FormatRebuilds.Statement .displayOff := fun _ _ => rfl

theorem FormatRebuilds.m1ExchC : FormatRebuilds.Statement .m1ExchC := fun _ _ => rfl

theorem FormatRebuilds.m1ToC : FormatRebuilds.Statement .m1ToC := fun _ _ => rfl

theorem FormatRebuilds.m2ExchC : FormatRebuilds.Statement .m2ExchC := fun _ _ => rfl

theorem FormatRebuilds.m2ToC : FormatRebuilds.Statement .m2ToC := fun _ _ => rfl

theorem FormatRebuilds.stackToA : FormatRebuilds.Statement .stackToA := fun _ _ => rfl

theorem FormatRebuilds.downRotate : FormatRebuilds.Statement .downRotate := fun _ _ => rfl

theorem FormatRebuilds.yToA : FormatRebuilds.Statement .yToA := fun _ _ => rfl

theorem FormatRebuilds.cToStack : FormatRebuilds.Statement .cToStack := fun _ _ => rfl

theorem FormatRebuilds.decimal : FormatRebuilds.Statement .decimal := fun _ _ => rfl

theorem FormatRebuilds.fToA : FormatRebuilds.Statement .fToA := fun _ _ => rfl

theorem FormatRebuilds.fExchA : FormatRebuilds.Statement .fExchA := fun _ _ => rfl

theorem FormatRebuilds.loadN (n : BitVec 4) : FormatRebuilds.Statement (.loadN n) := fun _ h => congrArg Instr.loadN (eq_of_beq h).symm

theorem FormatRebuilds.resetS (n : BitVec 4) : FormatRebuilds.Statement (.resetS n) := fun _ h => congrArg Instr.resetS (eq_of_beq h).symm

theorem FormatRebuilds.ifS0 (n : BitVec 4) : FormatRebuilds.Statement (.ifS0 n) := fun _ h => congrArg Instr.ifS0 (eq_of_beq h).symm

theorem FormatRebuilds.ifPNe (n : Nat) : FormatRebuilds.Statement (.ifPNe n) := fun _ h => congrArg Instr.ifPNe (eq_of_beq h)

theorem FormatRebuilds.setP (n : Nat) : FormatRebuilds.Statement (.setP n) := fun _ h => congrArg Instr.setP (eq_of_beq h)

end Sys2Proof.Laws
end

