-- ==== Sys2Proof/Tests/Slice0.lean ====
section
/-!
SUPPORT. Tests/Slice0.lean: ill-formed terms the checks refuse, a word written out from the spec's encoding for every
constructor, the vectors of spec/95_test_vectors.md (their ids in the docstrings), and for every obligation with
hypotheses a state and operands that meet them.
-/

namespace Sys2Proof.Tests

open Sys2Proof Sys2Proof.Machine

/-! ### Helpers -/

/-- A field of the state after one tick that runs word `w`. -/
def ran {α : Type} (w : Nat) (s : State) (f : State → α) : Option α :=
  match step (s.withFetchWord 16 w) with
  | .next t => some (f t)
  | _ => none

/-- The fault of one tick that runs word `w`, as `(kind, cause, bank, pc, opcode)`. -/
def faulted (w : Nat) (s : State) : Option (Nat × Nat × Nat × Pc × Word) :=
  match step (s.withFetchWord 16 w) with
  | .fault f => some (f.kind, f.cause, f.record.bank, f.record.pc, f.record.opcode)
  | _ => none

/-- The start state of the vectors. -/
abbrev r0 : State := State.reset

/-- A register literal. -/
abbrev h (v : Nat) : Reg := Reg.ofHex v

/-- The default parameters with banks of 1024 words. -/
abbrev P1024 : Params := { Params.default with romSize := 1024 }

/-- The default parameters with `CLASS11_STRICT`. -/
abbrev strict : Params := { Params.default with class11Strict := true }

/-! ### Well-formedness refuses what no word encodes -/

/-- "`n = 14` cannot be encoded" (R101). -/
theorem test_wf_refuses_if_p_eq_14 : (Instr.ifPEq 14).WellFormed = false := by decide

theorem test_wf_refuses_if_p_ne_14 : (Instr.ifPNe 14).WellFormed = false := by decide

/-- PSET holds no 15 (R91). -/
theorem test_wf_refuses_set_p_15 : (Instr.setP 15).WellFormed = false := by decide

theorem test_ill_formed_has_no_word :
    encode Params.default (.ifPEq 14) = none ∧ encode Params.default (.ifPNe 14) = none ∧
      encode Params.default (.setP 15) = none := by decide

/-! ### Decoding: a word written out for every constructor (R82 to R92) -/

theorem test_decode_arithmetic : ∀ e ∈ ([
      (0b0000011010, .zeroA .w), (0b0000100110, .zeroB .wp), (0b0001010010, .exchAB .s), (0b0001111110, .copyAB .ms),
      (0b0010001010, .exchAC .xs), (0b0010110110, .copyCA .m), (0b0011000010, .copyBC .p), (0b0011101110, .exchBC .x),
      (0b0100011010, .zeroC .w), (0b0100100110, .addABA .wp), (0b0101010010, .addACA .s), (0b0101111110, .addCCC .ms),
      (0b0110001010, .addACC .xs), (0b0110110110, .incA .m), (0b0111000010, .shlA .p), (0b0111101110, .incC .x),
      (0b1000011010, .subABA .w), (0b1000100110, .subACC .wp), (0b1001010010, .decA .s), (0b1001111110, .decC .ms),
      (0b1010001010, .negC .xs), (0b1010110110, .complC .m), (0b1011000010, .ifBZero .p), (0b1011101110, .ifCZero .x),
      (0b1100011010, .ifAGeC .w), (0b1100100110, .ifAGeB .wp), (0b1101010010, .ifANonzero .s), (0b1101111110, .ifCNonzero .ms),
      (0b1110001010, .subACA .xs), (0b1110110110, .shrA .m), (0b1111000010, .shrB .p), (0b1111101110, .shrC .x)] :
      List (Nat × Instr)), decodeTableWord 16 e.1 = some e.2 := by decide

theorem test_decode_branch : ∀ e ∈ ([
      (0b0100001001, .jsb 0x42), (0b0010001111, .ifNcGoto 0x23)] :
      List (Nat × Instr)), decodeTableWord 16 e.1 = some e.2 := by decide

theorem test_decode_special : ∀ e ∈ ([
      (0b0000000000, .nop), (0b0000010000, .keysToRom), (0b0001010000, .binary), (0b0001110000, .decP),
      (0b0010000000, .incP), (0b0010010000, .ret), (0b0011100000, .selectRom 3), (0b1001110000, .cToDataAddress),
      (0b1010110000, .clearDataRegisters), (0b1111110000, .woodstock), (0b1001000100, .setS 9), (0b0110010100, .ifS1 6),
      (0b1001100100, .ifPEq 13), (0b0010110100, .delayedSelectRom 2), (0b0000001000, .clearRegisters), (0b0001001000, .clearS),
      (0b0010001000, .displayToggle), (0b0011001000, .displayOff), (0b0100001000, .m1ExchC), (0b0101001000, .m1ToC),
      (0b0110001000, .m2ExchC), (0b0111001000, .m2ToC), (0b1000001000, .stackToA), (0b1001001000, .downRotate),
      (0b1010001000, .yToA), (0b1011001000, .cToStack), (0b1100001000, .decimal), (0b1110001000, .fToA),
      (0b1111001000, .fExchA), (0b1001011000, .loadN 9), (0b0101001100, .resetS 5), (0b1100011100, .ifS0 12),
      (0b1011101100, .ifPNe 0), (0b1101111100, .setP 9)] :
      List (Nat × Instr)), decodeTableWord 16 e.1 = some e.2 := by decide

/-- The eight field modifiers of `0 -> a[f]`, W1 to W8. -/
theorem test_decode_fields : ∀ e ∈ ([(0x002, .p), (0x006, .wp), (0x00A, .xs), (0x00E, .x), (0x012, .s), (0x016, .m),
      (0x01A, .w), (0x01E, .ms)] : List (Nat × FieldMod)),
    decodeTableWord 16 e.1 = some (.zeroA e.2) := by decide

/-- The duplicate table entries decode alike: K4, K5, K15, K16. -/
theorem test_decode_duplicates :
    decodeTableWord 16 0x224 = some (.ifPEq 1) ∧ decodeTableWord 16 0x164 = some (.ifPEq 1) ∧
      decodeTableWord 16 0x03C = some (.setP 14) ∧ decodeTableWord 16 0x3FC = some (.setP 14) := by decide

/-- E11 to E13, and a cell with one of its bits 15:10 set (R60). -/
theorem test_decode_illegal : ∀ w ∈ [0x030, 0x348, 0x028, 0x02A0 + 0x400], decodeTableWord 16 w = none := by decide

/-- E5 under both values of `CLASS11_STRICT`, and G7. -/
theorem test_decode_class11 :
    decodeTableWord 16 0x183 = some (.ifNcGoto 0x60) ∧ (decode strict 0x183).toOption = none ∧
      (decode strict 0x18F).toOption = some (.ifNcGoto 0x63) := by decide

/-- The assembler picks the lowest index of a duplicate entry (R101, decision D27). -/
theorem test_encode_lowest_index :
    encode Params.default (.ifPEq 1) = some 0x164 ∧ encode Params.default (.ifPEq 4) = some 0x024 ∧
      encode Params.default (.setP 14) = some 0x03C ∧ encode Params.default (.incC .w) = some 0x1FA := by decide

/-- The defaults of R6 and of log entry 1. -/
theorem test_default_parameters : Params.default.wf := by decide

/-- The reset image is canonical. -/
theorem test_reset_rom_canonical : State.reset.rom.wf = true := by decide

/-- Storing the blank word removes the cell. -/
theorem test_rom_write_keeps_form :
    Memory.write (Memory.write [] 5 7) 2 9 = [(2, 9), (5, 7)] ∧ Memory.write [(5, 7)] 5 0 = [] := by decide

/-! ### Field windows, zeroing, copies, exchanges (2.2, 2.3) -/

/-- W3: XS is nibble 2, whatever `p`. -/
theorem test_zero_a_xs :
    ran 0x00A { r0 with regA := h 0x11111111111111, p := 5 } (fun t => (t.regA, t.pc, t.prevCarry)) = some (h 0x11111111111011, 1, false) := by decide

/-- W12. -/
theorem test_zero_a_wp_pointer_14 : faulted 0x006 { r0 with pc := 0x040, p := 14 } = some (1, 3, 0, 0x040, 0x006) := by decide

/-- X8. -/
theorem test_zero_b :
    ran 0x03A { r0 with regB := h 0x99999999999999 } (fun t => t.regB) = some (h 0) := by decide

/-- X7. -/
theorem test_zero_c_m :
    ran 0x116 { r0 with regC := h 0x98765432109876 } (fun t => t.regC) = some (h 0x90000000000876) := by decide

/-- X1, the first of the two. -/
theorem test_exch_a_b :
    ran 0x05A { r0 with regA := h 0x12, regB := h 0x34 } (fun t => (t.regA, t.regB)) = some (h 0x34, h 0x12) := by decide

/-- X3. -/
theorem test_copy_a_b_xs :
    ran 0x06A { r0 with regA := h 0x55555555555555 } (fun t => (t.regA, t.regB)) = some (h 0x55555555555555, h 0x500) := by decide

/-- P4 at 0x004. -/
theorem test_exch_a_c :
    ran 0x09A { r0 with regA := h 0x1111 } (fun t => (t.regA, t.regC)) = some (h 0, h 0x1111) := by decide

/-- X4. -/
theorem test_copy_c_a_xs :
    ran 0x0AA { r0 with regA := h 0x11111111111111, regC := h 0x700 } (fun t => t.regA) = some (h 0x11111111111711) := by decide

/-- X6: a copy leaves CARRY 0. -/
theorem test_copy_c_a_latches :
    ran 0x0BA { r0 with regC := h 0x42, prevCarry := true } (fun t => (t.regA, t.prevCarry)) = some (h 0x42, false) := by decide

/-- from R158: the field of C takes B's nibbles. -/
theorem test_copy_b_c :
    ran 0x0CE { r0 with regB := h 0x12345, regC := h 0x98765 } (fun t => (t.regB, t.regC)) = some (h 0x12345, h 0x98745) := by decide

/-- X2. -/
theorem test_exch_b_c_ms :
    ran 0x0FE { r0 with regB := h 0x12345678901234, regC := h 0x98765432109876 } (fun t => (t.regB, t.regC)) = some (h 0x98765432109234, h 0x12345678901876) := by decide

/-- X5. -/
theorem test_exch_b_c_pointer_14 : faulted 0x0E2 { r0 with p := 14, regB := h 9 } = some (1, 3, 0, 0, 0x0E2) := by decide

/-! ### Adds (2.4) -/

/-- A1. -/
theorem test_add_a_b_x :
    ran 0x12E { r0 with regA := h 0x99, regB := h 1 } (fun t => (t.regA, t.prevCarry, t.carry)) = some (h 0, true, false) := by decide

/-- A10: the default DIGIT_ADJUST on an invalid decimal nibble. -/
theorem test_add_a_b_invalid_digit :
    ran 0x12A { r0 with regA := h 0xF00, regB := h 0x100 } (fun t => (t.regA, t.prevCarry)) = some (h 0x600, true) := by decide

/-- A3. -/
theorem test_add_a_c_to_a_s :
    ran 0x152 { r0 with regA := h 0x50000000000000, regC := h 0x50000000000000 } (fun t => (t.regA, t.regC, t.prevCarry)) = some (h 0, h 0x50000000000000, true) := by decide

/-- A12. -/
theorem test_add_a_c_to_a_x :
    ran 0x14E { r0 with regA := h 0x395, regC := h 7 } (fun t => (t.regA, t.prevCarry)) = some (h 0x302, true) := by decide

/-- A5. -/
theorem test_add_c_c :
    ran 0x17A { r0 with regC := h 5 } (fun t => (t.regC, t.prevCarry)) = some (h 0x10, false) := by decide

/-- A6: the carry does not pass `last`. -/
theorem test_add_a_c_to_c_m :
    ran 0x196 { r0 with regA := h 0x09999999999000, regC := h 0x1000 } (fun t => (t.regA, t.regC, t.prevCarry)) = some (h 0x09999999999000, h 0, true) := by decide

/-- A4. -/
theorem test_inc_a_p :
    ran 0x1A2 { r0 with regA := h 0xA } (fun t => (t.regA, t.prevCarry)) = some (h 1, true) := by decide

/-- A8: the 1 enters at nibble `first`. -/
theorem test_inc_a_ms :
    ran 0x1BE { r0 with regA := h 0x999 } (fun t => (t.regA, t.prevCarry)) = some (h 0x1999, false) := by decide

/-- A7. -/
theorem test_inc_c_wp :
    ran 0x1E6 { r0 with p := 3, regC := h 0x99999999999999 } (fun t => (t.regC, t.prevCarry)) = some (h 0x99999999990000, true) := by decide

/-- S3. -/
theorem test_inc_c_binary :
    ran 0x1FA { r0 with base := .binary, regC := h 0xF } (fun t => (t.regC, t.prevCarry)) = some (h 0x10, false) := by decide

/-! ### Subtracts (2.5) -/

/-- B8. -/
theorem test_sub_a_b_m :
    ran 0x216 { r0 with regA := h 0x1000, regB := h 0x2000 } (fun t => (t.regA, t.regB, t.prevCarry)) = some (h 0x09999999999000, h 0x2000, true) := by decide

/-- B11. -/
theorem test_sub_a_b_pointer_14 : faulted 0x202 { r0 with p := 14 } = some (1, 3, 0, 0, 0x202) := by decide

/-- B1. -/
theorem test_sub_a_c_to_c :
    ran 0x23A { r0 with base := .binary, regC := h 1 } (fun t => (t.regA, t.regC, t.prevCarry)) = some (h 0, h 0xFFFFFFFFFFFFFF, true) := by decide

/-- B6. -/
theorem test_sub_a_c_to_a :
    ran 0x38E { r0 with regA := h 0x23, regC := h 5 } (fun t => (t.regA, t.regC, t.prevCarry)) = some (h 0x18, h 5, false) := by decide

/-- B2: nibble 2 lies outside the field. -/
theorem test_dec_a_x :
    ran 0x24E { r0 with regA := h 0x500 } (fun t => (t.regA, t.prevCarry)) = some (h 0x599, true) := by decide

/-- B7. -/
theorem test_dec_a_invalid_digit :
    ran 0x242 { r0 with regA := h 0xC } (fun t => (t.regA, t.prevCarry)) = some (h 0xB, false) := by decide

/-- B3. -/
theorem test_dec_c_p :
    ran 0x262 { r0 with p := 3, regC := h 0x1000 } (fun t => (t.regC, t.prevCarry)) = some (h 0, false) := by decide

/-- B4. -/
theorem test_neg_c_zero :
    ran 0x29A r0 (fun t => (t.regC, t.prevCarry)) = some (h 0, false) := by decide

/-- B10. -/
theorem test_neg_c_x :
    ran 0x28E { r0 with regC := h 0x101 } (fun t => (t.regC, t.prevCarry)) = some (h 0x199, true) := by decide

/-- B5. -/
theorem test_compl_c :
    ran 0x2BA r0 (fun t => (t.regC, t.prevCarry)) = some (h 0x99999999999999, true) := by decide

/-- B9. -/
theorem test_compl_c_binary :
    ran 0x2BA { r0 with base := .binary, regC := h 1 } (fun t => (t.regC, t.prevCarry)) = some (h 0xFFFFFFFFFFFFFE, true) := by decide

/-! ### Field tests and shifts (2.6, 2.7): the verdict after the tick -/

/-- T2. -/
theorem test_if_b_zero :
    ran 0x2DA { r0 with regB := h 1 } (fun t => (t.prevCarry, t.regB)) = some (true, h 1) := by decide

/-- T3: nibbles 3 to 12 are 0. -/
theorem test_if_c_zero_m :
    ran 0x2F6 { r0 with regC := h 0x90000000000123 } (fun t => t.prevCarry) = some false := by decide

/-- T4. -/
theorem test_if_a_ge_c_less :
    ran 0x31A { r0 with regA := h 0x122, regC := h 0x123 } (fun t => (t.regA, t.prevCarry)) = some (h 0x122, true) := by decide

/-- T12. -/
theorem test_if_a_ge_c_pointer_14 : faulted 0x302 { r0 with pc := 0x040, p := 14 } = some (1, 3, 0, 0x040, 0x302) := by decide

/-- T6. -/
theorem test_if_a_ge_b_x :
    ran 0x32E { r0 with regA := h 0x50, regB := h 0x49 } (fun t => t.prevCarry) = some false := by decide

/-- T10. -/
theorem test_if_a_nonzero_m :
    ran 0x356 { r0 with regA := h 0x90000000000999 } (fun t => t.prevCarry) = some true := by decide

/-- T8. -/
theorem test_if_c_nonzero_s :
    ran 0x372 { r0 with regC := h 0x90000000000000 } (fun t => t.prevCarry) = some false := by decide

/-- T9. -/
theorem test_if_c_nonzero_w :
    ran 0x37A r0 (fun t => t.prevCarry) = some true := by decide

/-- H4. -/
theorem test_shr_a_ms :
    ran 0x3BE { r0 with regA := h 0x12345678901234 } (fun t => t.regA) = some (h 0x01234567890234) := by decide

/-- H7. -/
theorem test_shr_b_m :
    ran 0x3D6 { r0 with regB := h 0x12345678901234 } (fun t => t.regB) = some (h 0x10234567890234) := by decide

/-- H1: a field of one nibble becomes 0. -/
theorem test_shr_c_p :
    ran 0x3E2 { r0 with p := 4, regC := h 0x50000 } (fun t => (t.regC, t.prevCarry)) = some (h 0, false) := by decide

/-- H3. -/
theorem test_shl_a_x :
    ran 0x1CE { r0 with regA := h 0x123, prevCarry := true } (fun t => (t.regA, t.prevCarry)) = some (h 0x130, false) := by decide

/-- H5: the old nibble 13 is lost. -/
theorem test_shl_a_w :
    ran 0x1DA { r0 with regA := h 0x90000000000001 } (fun t => t.regA) = some (h 0x10) := by decide

/-! ### Special group 0 (2.8) -/

/-- Q1. -/
theorem test_nop_latches :
    ran 0x000 { r0 with pc := 0x005, prevCarry := true } (fun t => (t.pc, t.prevCarry)) = some (0x006, false) := by decide

/-- Q17. -/
theorem test_nop_wraps :
    ran 0x000 { r0 with pc := 0xFFF } (fun t => (t.pc, t.romBank)) = some (0, 0) := by decide

/-- Q3: no commit. -/
theorem test_keys_to_rom :
    ran 0x010 { r0 with pc := 0x103, keycode := 0x23, delayedRom := true, delayedBank := 5 } (fun t => (t.pc, t.delayedRom, t.delayedBank)) = some (0x123, true, 5) := by decide

/-- Q2: the page of the instruction itself. -/
theorem test_keys_to_rom_page :
    ran 0x010 { r0 with pc := 0x2FF } (fun t => t.pc) = some 0x200 := by decide

/-- Q4. -/
theorem test_binary :
    ran 0x050 r0 (fun t => t.base) = some .binary := by decide

/-- Q5. -/
theorem test_dec_p_wraps :
    ran 0x070 r0 (fun t => (t.p, t.pc)) = some (14, 1) := by decide

/-- Q6. -/
theorem test_inc_p :
    ran 0x080 { r0 with p := 13 } (fun t => t.p) = some 14 := by decide

/-- Q7. -/
theorem test_inc_p_wraps :
    ran 0x080 { r0 with p := 14 } (fun t => t.p) = some 0 := by decide

/-- Q8. -/
theorem test_return_unmatched :
    ran 0x090 { r0 with pc := 0x200 } (fun t => (t.sp, t.pc)) = some (1, 0x001) := by decide

/-- Q18. -/
theorem test_return_no_commit :
    ran 0x090 { r0 with pc := 0x040, sp := 1, stack := [0x100, 0], delayedRom := true, delayedBank := 2 } (fun t => (t.sp, t.pc, t.delayedRom)) = some (0, 0x101, true) := by decide

/-- Q11: the carry goes into page 4. -/
theorem test_select_rom_carries :
    ran 0x0E0 { r0 with pc := 0x1FF } (fun t => t.pc) = some 0x400 := by decide

/-- Q13. -/
theorem test_select_rom_outside : faulted 0x120 { r0 with params := P1024, pc := 0x105 } = some (2, 2, 0, 0x105, 0x120) := by decide

/-- Q9. -/
theorem test_c_to_data_address :
    ran 0x270 { r0 with regC := h 0x15 } (fun t => (t.address, t.regC)) = some (21, h 0x15) := by decide

/-- Q10. -/
theorem test_clear_data_registers :
    ran 0x2B0 { r0 with ram := [h 1, h 2, h 3, h 0x42], address := 3 } (fun t => (t.ram, t.address)) = some ([h 0, h 0, h 0, h 0], 3) := by decide

/-- Q14. -/
theorem test_woodstock :
    ran 0x3F0 r0 (fun t => (t.pc, t.regA, t.p)) = some (1, h 0, 0) := by decide

/-- Q15. -/
theorem test_illegal_word : faulted 0x030 { r0 with pc := 0x011 } = some (1, 1, 0, 0x011, 0x030) := by decide

/-! ### Status and pointer (2.9); a status word is its bits -/

/-- K2. -/
theorem test_set_s_15 :
    ran 0x3C4 { r0 with status := 0 } (fun t => t.status) = some 0x8000 := by decide

/-- S4a, tick 1. -/
theorem test_if_s_1 :
    ran 0x114 { r0 with pc := 0x121, status := 0x0038 } (fun t => (t.pc, t.prevCarry)) = some (0x122, false) := by decide

/-- K3, tick 1. -/
theorem test_if_s_1_clear :
    ran 0x0D4 { r0 with pc := 0x040, status := 0 } (fun t => (t.pc, t.prevCarry)) = some (0x041, true) := by decide

/-- K4, tick 1. -/
theorem test_if_p_eq_duplicate :
    ran 0x224 { r0 with p := 1 } (fun t => (t.p, t.prevCarry)) = some (1, false) := by decide

/-- K6, tick 1: no entry tests 14. -/
theorem test_if_p_eq_never_14 :
    ran 0x024 { r0 with p := 14 } (fun t => t.prevCarry) = some true := by decide

/-- K7, tick 2: the last selection wins. -/
theorem test_delayed_select_rom :
    ran 0x1B4 { r0 with pc := 0x041, delayedRom := true, delayedBank := 2 } (fun t => (t.delayedBank, t.delayedRom, t.pc, t.romBank)) = some (6, true, 0x042, 0) := by decide

/-- K8. -/
theorem test_reset_s_sticky :
    ran 0x14C { r0 with status := 0x0020, keydown := true } (fun t => t.status) = some 0x0020 := by decide

/-- K10: bit 1 is not in the default set. -/
theorem test_reset_s_not_sticky :
    ran 0x04C { r0 with status := 0x0002, keydown := true } (fun t => t.status) = some 0 := by decide

/-- K12, tick 1. -/
theorem test_if_s_0 :
    ran 0x1DC { r0 with status := 0x0080 } (fun t => t.prevCarry) = some true := by decide

/-- K14, tick 1. -/
theorem test_if_p_ne :
    ran 0x02C { r0 with p := 4 } (fun t => t.prevCarry) = some true := by decide

/-- K13, tick 1. -/
theorem test_if_p_ne_14 :
    ran 0x02C { r0 with p := 14 } (fun t => t.prevCarry) = some false := by decide

/-- K16. -/
theorem test_set_p_14 :
    ran 0x3FC { r0 with p := 3 } (fun t => t.p) = some 14 := by decide

/-- K17. -/
theorem test_set_p_3 :
    ran 0x27C r0 (fun t => t.p) = some 3 := by decide

/-! ### Special group 2 (2.10) -/

/-- M1. -/
theorem test_clear_registers :
    ran 0x008 { r0 with regA := h 1, regM := h 0x50000000000000, regT := h 7, p := 6, f := 3 } (fun t => (t.regA, t.regM, t.regT, t.p, t.f, t.status)) = some (h 0, h 0, h 0, 6, 3, 0x0028) := by decide

/-- M2. -/
theorem test_clear_s :
    ran 0x048 { r0 with status := 0xFFFF } (fun t => t.status) = some 0x8026 := by decide

/-- M3, tick 2. -/
theorem test_display_toggle :
    ran 0x088 { r0 with displayEnable := true } (fun t => t.displayEnable) = some false := by decide

/-- M4. -/
theorem test_display_off :
    ran 0x0C8 { r0 with displayEnable := true } (fun t => (t.displayEnable, t.pc)) = some (false, 1) := by decide

/-- M5. -/
theorem test_m1_exch_c :
    ran 0x108 { r0 with regM := h 1, regC := h 2 } (fun t => (t.regM, t.regC)) = some (h 2, h 1) := by decide

/-- M6. -/
theorem test_m1_to_c :
    ran 0x148 { r0 with regM := h 7, regC := h 2 } (fun t => (t.regM, t.regC)) = some (h 7, h 7) := by decide

/-- M7. -/
theorem test_m2_exch_c :
    ran 0x188 { r0 with regN := h 1, regC := h 2 } (fun t => (t.regN, t.regC)) = some (h 2, h 1) := by decide

/-- M8. -/
theorem test_m2_to_c :
    ran 0x1C8 { r0 with regN := h 7, regC := h 2 } (fun t => (t.regN, t.regC)) = some (h 7, h 7) := by decide

/-- M9. -/
theorem test_stack_to_a :
    ran 0x208 { r0 with regA := h 9, regY := h 1, regZ := h 2, regT := h 3 } (fun t => (t.regA, t.regY, t.regZ, t.regT)) = some (h 1, h 2, h 3, h 3) := by decide

/-- M10. -/
theorem test_down_rotate :
    ran 0x248 { r0 with regC := h 1, regY := h 2, regZ := h 3, regT := h 4 } (fun t => (t.regC, t.regY, t.regZ, t.regT)) = some (h 2, h 3, h 4, h 1) := by decide

/-- M11. -/
theorem test_y_to_a :
    ran 0x288 { r0 with regY := h 9, regA := h 5 } (fun t => (t.regA, t.regY)) = some (h 9, h 9) := by decide

/-- M12. -/
theorem test_c_to_stack :
    ran 0x2C8 { r0 with regC := h 5, regY := h 1, regZ := h 2, regT := h 3 } (fun t => (t.regY, t.regZ, t.regT, t.regC)) = some (h 5, h 1, h 2, h 5) := by decide

/-- M13. -/
theorem test_decimal :
    ran 0x308 { r0 with base := .binary, regC := h 0xF } (fun t => (t.base, t.regC)) = some (.decimal, h 0xF) := by decide

/-- M14. -/
theorem test_f_to_a :
    ran 0x388 { r0 with f := 7, regA := h 0x12345678901234 } (fun t => (t.regA, t.f)) = some (h 0x12345678901237, 7) := by decide

/-- M15. -/
theorem test_f_exch_a :
    ran 0x3C8 { r0 with f := 7, regA := h 3 } (fun t => (t.f, t.regA)) = some (3, h 7) := by decide

/-- M18: stored as is, whatever the base. -/
theorem test_load_n :
    ran 0x318 { r0 with p := 5 } (fun t => (t.regC, t.p)) = some (h 0xC00000, 4) := by decide

/-- M17. -/
theorem test_load_n_pointer_14 : faulted 0x258 { r0 with pc := 0x033, p := 14 } = some (1, 4, 0, 0x033, 0x258) := by decide

/-! ### Control transfer (2.11) -/

/-- J3. -/
theorem test_jsb_commits :
    ran 0x001 { r0 with pc := 0x0FF, delayedRom := true, delayedBank := 3 } (fun t => (t.pc, t.delayedRom, t.delayedBank, t.stack, t.sp)) = some (0x300, false, 3, [0x0FF, 0], 1) := by decide

/-- J4. -/
theorem test_jsb_outside : faulted 0x081 { r0 with params := P1024, pc := 0x010, delayedRom := true, delayedBank := 7 } = some (2, 3, 0, 0x010, 0x081) := by decide

/-- G3. -/
theorem test_if_nc_goto_not_taken :
    ran 0x183 { r0 with pc := 0x040, prevCarry := true, delayedRom := true, delayedBank := 2 } (fun t => (t.pc, t.delayedRom, t.prevCarry)) = some (0x041, true, false) := by decide

/-- G4. -/
theorem test_if_nc_goto_taken :
    ran 0x183 { r0 with pc := 0x040, delayedRom := true, delayedBank := 2 } (fun t => (t.pc, t.delayedRom)) = some (0x260, false) := by decide

/-- G6. -/
theorem test_class11_strict : faulted 0x187 { r0 with params := strict, pc := 0x040 } = some (1, 2, 0, 0x040, 0x187) := by decide

/-! ### The host (2.12) -/

/-- The calls of H-1, H-2, H-4 and H-5. -/
theorem test_host_calls :
    (afterCalls { r0 with p := 7 } [.setKey 0x23 true]).status = 0x8028 ∧
      (afterCalls r0 [.setKey 0x23 true, .setKey 0x23 false]) =
        { r0 with keycode := 0x23, keydown := false, status := 0x8028 } ∧
      afterCalls { r0 with p := 7, regA := h 5, trace := true } [.reset] = r0 ∧
      afterCalls r0 [.setTrace true] = { r0 with trace := true } := by decide

/-- H-3: a refused call changes nothing. -/
theorem test_host_refused_key : afterCalls r0 [.setKey 0x100 true] = r0 := by decide

/-! ### Witnesses: for every obligation with hypotheses, a state and operands that meet them -/

/-- A state of a run, other than the reset state: pc 0x040, page 2 pending, one return address pushed. -/
abbrev w0 : State :=
  { r0 with pc := 0x040, delayedRom := true, delayedBank := 2, stack := [0x100, 0], sp := 1, p := 13, prevCarry := true }

/-- `w0` with banks of 1024 words. -/
abbrev w1024 : State := { w0 with params := P1024, delayedBank := 3 }

theorem witness_inv : w0.Inv :=
  ⟨by decide, by decide, by simp [Memory.inside, State.initial, State.reset], by decide, by decide, by decide, by decide, by decide, by decide,
    by decide, by decide, by decide, rfl, rfl, rfl⟩

/-- DecodeOfEncodeIsIdentity, at the largest operands, with `CLASS11_STRICT` off and on. -/
theorem witness_decode_of_encode :
    (Params.default.opcodeMap.wf ∧ encode Params.default (.jsb 0xFF) = some 0x3FD) ∧
      (strict.opcodeMap.wf ∧ encode strict (.ifNcGoto 0x63) = some 0x18F) := by decide

/-- EveryWellFormedInstructionHasADefaultWord, at the largest pointer numbers. -/
theorem witness_well_formed :
    (Instr.ifPEq 13).WellFormed = true ∧ (Instr.ifPNe 13).WellFormed = true ∧ (Instr.setP 14).WellFormed = true := by
  decide

/-- DecodedInstructionIsWellFormedAndReencodes. -/
theorem witness_decoded : Params.default.opcodeMap.wf ∧ decode Params.default 0x3FC = .ok (.setP 14) :=
  ⟨by decide, rfl⟩

/-- PointerTablesHoldTheirPrintedEntries: a word for each of the three instructions, at the ends of `k`. -/
theorem witness_pointer_words :
    decode Params.default 0x03C = .ok (.setP 14) ∧ decode Params.default 0x3E4 = .ok (.ifPEq 4) ∧
      decode Params.default 0x3EC = .ok (.ifPNe 4) := ⟨rfl, rfl, rfl⟩

/-- BranchAndSpecialWordsDecodeTheirFields: a row with every `k` and a row with one, at its word; a word that meets no row,
next to one that does; a word with each operand. -/
theorem witness_special_words :
    Params.default.opcodeMap.wf ∧ (0x3F4#10).extractLsb' 0 2 = 0 ∧
      (⟨.delayedSelectRom, 0b01, 0b11, none⟩ : SpecialRow) ∈ Params.default.opcodeMap.special ∧
      (0b01 : BitVec 2) = (0x3F4#10).extractLsb' 2 2 ∧ (0b11 : BitVec 2) = (0x3F4#10).extractLsb' 4 2 ∧
      (⟨.woodstock, 0b00, 0b11, some 15⟩ : SpecialRow) ∈ Params.default.opcodeMap.special ∧
      (15 : BitVec 4) = (0x3F0#10).extractLsb' 6 4 ∧ (0x348#10).extractLsb' 0 2 = 0 ∧
      (∀ r ∈ Params.default.opcodeMap.special, ¬ (r.g = (0x348#10).extractLsb' 2 2 ∧ r.sub = (0x348#10).extractLsb' 4 2 ∧
        (r.k = none ∨ r.k = some ((0x348#10).extractLsb' 6 4)))) := by decide

theorem witness_operand_words :
    decode Params.default 0x3E0 = .ok (.selectRom 15) ∧ decode Params.default 0x3C4 = .ok (.setS 15) ∧
      decode Params.default 0x3D4 = .ok (.ifS1 15) ∧ decode Params.default 0x3F4 = .ok (.delayedSelectRom 15) ∧
      decode Params.default 0x3D8 = .ok (.loadN 15) ∧ decode Params.default 0x3CC = .ok (.resetS 15) ∧
      decode Params.default 0x3DC = .ok (.ifS0 15) := ⟨rfl, rfl, rfl, rfl, rfl, rfl, rfl⟩

/-- BranchAndSpecialWordsDecodeTheirFields, one word for each clause on a branch. -/
theorem witness_branch_classes :
    (0x109#10).extractLsb' 0 2 = 1 ∧
      ((0x187#10).extractLsb' 0 2 = 3 ∧ strict.class11Strict = true ∧ (0x187#10).extractLsb' 2 2 ≠ 3) ∧
      ((0x183#10).extractLsb' 0 2 = 3 ∧ Params.default.class11Strict = false) ∧
      ((0x18F#10).extractLsb' 0 2 = 3 ∧ (0x18F#10).extractLsb' 2 2 = 3) := by decide

/-- StepRunsTheDecodedInstruction, at the last word of the ROM. -/
theorem witness_step_runs :
    fetchAddress { w0 with pc := 0xFFF } < romWords w0.params ∧
      decode w0.params (fetchedWord { w0 with pc := 0xFFF }) = .ok .nop := ⟨by decide, rfl⟩

/-- RejectedWordIsADecoderFault, for both causes. -/
theorem witness_rejected :
    (fetchAddress (w0.withFetchWord 16 0x030) < romWords w0.params ∧
      decode w0.params (fetchedWord (w0.withFetchWord 16 0x030)) = .error .illegalOpcode) ∧
    (fetchAddress (State.withFetchWord { w0 with params := strict } 16 0x187) < romWords strict ∧
      decode strict (fetchedWord (State.withFetchWord { w0 with params := strict } 16 0x187)) =
        .error .class11Subclass) := ⟨⟨by decide, rfl⟩, ⟨by decide, rfl⟩⟩

/-- FetchOutsideRomFaultsAndNeverHappens, its first clause at the first address outside; its second by `witness_inv`. -/
theorem witness_fetch_outside : romWords w0.params ≤ fetchAddress { w0 with romBank := 1, pc := 0 } := by decide

/-- FaultRecordNamesTheOffendingWord, with the fetch inside the ROM and outside. -/
theorem witness_fault_record :
    (∃ f, step (w0.withFetchWord 16 0x030) = .fault f) ∧
      (∃ f, step { w0 with romBank := 1, pc := 0 } = .fault f) := ⟨⟨_, rfl⟩, ⟨_, rfl⟩⟩

/-- InstructionFaultsExactlyAsListed, one fault for each clause; `p` at 14, the targets at the first address outside. -/
theorem witness_instruction_faults :
    (∃ f, exec (.zeroA .p) { w0 with p := 14 } = .fault f ∧ f.kind = 1 ∧ f.cause = 3) ∧
    (∃ f, exec (.zeroA .wp) { w0 with p := 14 } = .fault f ∧ f.kind = 1 ∧ f.cause = 3) ∧
    (∃ f, exec (.loadN 0) { w0 with p := 14 } = .fault f ∧ f.kind = 1 ∧ f.cause = 4) ∧
    (∃ f, exec (.selectRom 4) { w1024 with pc := 0x100 } = .fault f ∧ f.kind = 2 ∧ f.cause = 2) ∧
    (∃ f, exec (.jsb 0) { w1024 with delayedBank := 4 } = .fault f ∧ f.kind = 2 ∧ f.cause = 3) ∧
    (∃ f, exec (.ifNcGoto 0) { w1024 with delayedBank := 4, prevCarry := false } = .fault f ∧ f.kind = 2 ∧
      f.cause = 3) :=
  ⟨⟨_, rfl, rfl, rfl⟩, ⟨_, rfl, rfl, rfl⟩, ⟨_, rfl, rfl, rfl⟩, ⟨_, rfl, rfl, rfl⟩, ⟨_, rfl, rfl, rfl⟩, ⟨_, rfl, rfl, rfl⟩⟩

/-- FetchOutsideRomFaultsAndNeverHappens, its last clause: `witness_inv`'s state with the illegal word 0x030 at its pc. -/
theorem witness_full_banks :
    (w0.withFetchWord 16 0x030).Inv ∧ (w0.withFetchWord 16 0x030).params.romSize = 4096 ∧
      ∃ f, step (w0.withFetchWord 16 0x030) = .fault f :=
  ⟨⟨by decide, by decide, by unfold Memory.inside; decide, by decide, by decide, by decide, by decide, by decide,
    by decide, by decide, by decide, by decide, rfl, rfl, rfl⟩, rfl, ⟨_, rfl⟩⟩

/-- EveryTickKeepsTheInvariant, NoInstructionWritesTheRom, TickLeavesHostOwnedStateAlone. -/
theorem witness_tick : w0.Inv ∧ ∃ t, step w0 = .next t := ⟨witness_inv, _, rfl⟩

/-- EveryRunOfAConstructedProcessorMeetsTheInvariant: a bank of 256 words, read from 256 cells. -/
theorem witness_constructed :
    ∃ s, newProcessor { Params.default with romSize := 256 } (List.replicate 256 0x3FF) 1 0 = .next s := by
  refine ⟨State.initial (withCounts { Params.default with romSize := 256 } 1 0)
    (Memory.ofCells 0 ((List.replicate 256 0x3FF).take 256)), ?_⟩
  unfold newProcessor
  rw [if_neg (by decide), if_neg (by rw [List.length_replicate]; decide), if_neg (by rw [List.any_replicate]; decide)]
  rfl

/-- DigitsStayBelowTheBase: an increment, and `load n` with the largest digit below the base. -/
theorem witness_digits :
    w0.Inv ∧ ValidDigits w0 ∧ w0.f.toNat < w0.base.toNat ∧ (∃ t, exec (.incC .w) w0 = .next t) ∧
      (∃ t, exec (.loadN 9) w0 = .next t) ∧ (9#4).toNat < w0.base.toNat :=
  ⟨witness_inv, by intro X k hk; cases X <;> interval_cases k <;> decide, by decide, ⟨_, rfl⟩, ⟨_, rfl⟩, by decide⟩

/-- DigitsStayBelowTheBase, its case of `decimal`: from binary, with every nibble and F at most 9. -/
theorem witness_digits_decimal :
    let s : State := { w0 with base := .binary, f := 9 }
    s.Inv ∧ ValidDigits s ∧ s.f.toNat < s.base.toNat ∧ (∃ t, exec .decimal s = .next t) ∧
      (∀ X k, k < 14 → ((s.getReg X).nib k).toNat < 10) ∧ s.f.toNat < 10 :=
  ⟨⟨by decide, by decide, by simp [Memory.inside, State.initial, State.reset], by decide, by decide, by decide, by decide,
    by decide, by decide, by decide, by decide, by decide, rfl, rfl, rfl⟩,
    by intro X k hk; cases X <;> interval_cases k <;> decide, by decide, ⟨_, rfl⟩,
    by intro X k hk; cases X <;> interval_cases k <;> decide, by decide⟩

/-- EveryTickLatchesAndAdvancesOnce: a branch not taken, and a shift. -/
theorem witness_latch :
    (∃ t, exec (.ifNcGoto 0x60) w0 = .next t) ∧ w0.prevCarry = true ∧
      isArith (.shlA .w) [.shrA, .shrB, .shrC, .shlA] = true ∧ ∃ t, exec (.shlA .w) w0 = .next t :=
  ⟨⟨_, rfl⟩, rfl, rfl, ⟨_, rfl⟩⟩

/-- EveryTickLatchesAndAdvancesOnce, OnlyArithmeticAndTestsLeaveCarry and the three statements on who writes what: an
instruction on none of their lists, at the last word of a bank. -/
theorem witness_writers :
    w0.params.wf ∧ w0.carry = false ∧ (∃ t, exec .nop { w0 with pc := 0xFFF } = .next t) ∧
      isBranch .nop = false ∧ (∀ ops : List ArithOp, isArith .nop ops = false) ∧ isSpecial .nop [.ret, .keysToRom, .selectRom] = false ∧
      isSpecial .nop [.ifS1, .ifS0, .ifPEq, .ifPNe] = false :=
  ⟨by decide, rfl, ⟨_, rfl⟩, rfl, fun _ => rfl, rfl, rfl⟩

/-- StackAndSelectionWritersAreAsListed: its clauses on an instruction with a pending selection, and on `jsb`. -/
theorem witness_stack_writers :
    (∃ t, exec (.ifPEq 1) w0 = .next t) ∧ (∀ L, Instr.ifPEq 1 ≠ .jsb L) ∧ Instr.ifPEq 1 ≠ .ret ∧
      isSpecial (.ifPEq 1) [.delayedSelectRom] = false ∧ isBranch (.ifPEq 1) = false ∧ w0.delayedRom = true ∧
      ∃ t, exec (.jsb 0) w0 = .next t := by
  refine ⟨⟨_, rfl⟩, ?_, ?_, rfl, rfl, rfl, ⟨_, rfl⟩⟩ <;> simp

/-- HeldKeyKeepsStatusBit15: a tick that runs `0 -> s 15` with a key down (K18). -/
theorem witness_held_key :
    let s := State.withFetchWord { w0 with keydown := true, status := 0x8000 } 16 0x3CC
    s.params.zeroSSticky.getLsbD 15 = true ∧ s.keydown = true ∧ s.status.getLsbD 15 = true ∧ ∃ t, step s = .next t :=
  ⟨rfl, rfl, rfl, ⟨_, rfl⟩⟩

/-- FieldWindowsAreAsTabulated: a class-10 word, and the pointer values where its clauses meet. -/
theorem witness_windows :
    Params.default.opcodeMap.wf ∧ (0x1FA#10).extractLsb' 0 2 = 2 ∧ window .wp 13 = some ⟨0, 13⟩ ∧ window .p 0 = some ⟨0, 0⟩ ∧ window .wp 14 = none := by decide

/-- The windows of `FieldMod` WP and P exist at `p = 13`: ArithmeticActsOnItsFieldOnly, ZeroingAndCopyingComplete,
ExchangesComplete, AddsCompleteDigitBySerialDigit, SubtractsCompleteDigitBySerialDigit, ComparisonsComplete,
ZeroTestsComplete, ShiftsComplete, CarriesOfIncrementDecrementAndComplement. -/
theorem witness_window_exists :
    window .wp w0.p = some ⟨0, 13⟩ ∧ window .p w0.p = some ⟨13, 13⟩ ∧
      fieldMod? (.incA .wp) = some .wp ∧ (∃ t, exec (.incA .wp) w0 = .next t) ∧ (∃ t, exec (.incC .wp) w0 = .next t) ∧
      (∃ t, exec (.decA .wp) w0 = .next t) ∧ (∃ t, exec (.decC .wp) w0 = .next t) ∧
      (∃ t, exec (.negC .wp) w0 = .next t) ∧ (∃ t, exec (.complC .wp) w0 = .next t) :=
  ⟨rfl, rfl, rfl, ⟨_, rfl⟩, ⟨_, rfl⟩, ⟨_, rfl⟩, ⟨_, rfl⟩, ⟨_, rfl⟩, ⟨_, rfl⟩⟩

/-- ExchangesComplete, its last clause. -/
theorem witness_exchange_twice : ∃ t u, exec (.exchAB .wp) w0 = .next t ∧ exec (.exchAB .wp) t = .next u :=
  ⟨_, _, rfl, rfl⟩

/-- AddIsAdditionModuloTheField, SubtractIsSubtractionModuloTheField, AddZeroAndSubtractSelf, the two statements on the
primitives and the valid digits of
CarriesOfIncrementDecrementAndComplement: all nines, over the whole register. -/
theorem witness_valid_field :
    wholeWindow.first ≤ wholeWindow.last ∧ wholeWindow.last ≤ 13 ∧
      ValidField .decimal wholeWindow (State.operand { w0 with regA := h 0x99999999999999 } (some .A)) ∧
      ValidField .decimal wholeWindow (State.operand w0 none) :=
  ⟨by decide, by decide, by intro k _ hk; have : k ≤ 13 := hk; interval_cases k <;> decide,
    by intro k _ hk; have : k ≤ 13 := hk; interval_cases k <;> decide⟩

/-- DigitAdjustmentIsTheDefaultWhereTheSourceFixesIt: the ends of its ranges in decimal, with a table and without. -/
theorem witness_digit_adjust :
    Radix.decimal.toNat ≤ 10 ∧ (19 : Nat) ≤ 31 ∧ Radix.binary.toNat ≤ 31 ∧
      Params.default.digitAdjust = .mod16 := by decide

/-- BranchAfterATestFollowsItsVerdict: `if 0 = s 4` and the branch after it, with both verdicts, a selection pending. -/
theorem witness_branch_after_test : ∀ v ∈ [(0x0028#16), 0x0010],
    let s : State := { w0 with status := v, rom := [(0x040, 0x11C), (0x041, 0x183)] }
    s.Inv ∧ decode s.params (fetchedWord s) = .ok (.ifS0 4) ∧ isSpecial (.ifS0 4) [.ifS1, .ifS0, .ifPEq, .ifPNe] = true ∧
      (pageAddress s.delayedBank 0x60).toNat < s.params.romSize ∧
      ∃ t, step s = .next t ∧ decode t.params (fetchedWord t) = .ok (.ifNcGoto 0x60) := by
  intro v hv
  simp only [List.mem_cons, List.not_mem_nil, or_false] at hv
  rcases hv with rfl | rfl <;>
  exact ⟨⟨by decide, by decide, by unfold Memory.inside; decide, by decide, by decide, by decide, by decide, by decide,
    by decide, by decide, by decide, by decide, rfl, rfl, rfl⟩, rfl, rfl, by decide, ⟨_, rfl, rfl⟩⟩

/-- PointerInstructionsComplete: its clauses on a legal pointer, at both ends and within. -/
theorem witness_pointer : State.p { w0 with p := 0 } ≤ 14 ∧ State.p { w0 with p := 14 } ≤ 14 ∧ w0.p ≤ 14 := by decide

/-- ReturnCompletes, with `sp` at 0 and above. -/
theorem witness_return :
    w0.params.wf ∧ w0.sp < w0.params.stackSize ∧ State.sp { w0 with sp := 0 } < w0.params.stackSize := by decide

/-- SelectRomCompletesOrFaults: the last address of a bank of 1024 words, and the first one outside. -/
theorem witness_select_rom :
    w1024.params.wf ∧ 3 * 256 + (State.pc { w1024 with pc := 0x0FF }).toNat % 256 < w1024.params.romSize ∧
      w1024.params.romSize ≤ 4 * 256 + (State.pc { w1024 with pc := 0x100 }).toNat % 256 := by decide

/-- DelayedSelectAndKeyDispatchComplete. -/
theorem witness_delayed_select :
    ∃ t u, exec (.delayedSelectRom 15) w0 = .next t ∧ exec (.delayedSelectRom 0) t = .next u := ⟨_, _, rfl, rfl⟩

/-- LoadConstantCompletesOrFaults: `p` at 0, 13 and 14. -/
theorem witness_load :
    State.p { w0 with p := 0 } ≤ 13 ∧ w0.p ≤ 13 ∧ 14 ≤ State.p { w0 with p := 14 } := by decide

/-- JsbCompletesOrFaults and IfNcGotoCompletesOrFaults: targets at the last address inside and the first outside, with
a pending selection and without, and both values of PREV_CARRY. -/
theorem witness_transfer :
    w1024.delayedBank.toNat * 256 + (0xFF#8).toNat < w1024.params.romSize ∧
      w1024.params.romSize ≤ (State.delayedBank { w1024 with delayedBank := 4 }).toNat * 256 + (0#8).toNat ∧
      w0.pc.toNat / 256 * 256 + (0xFF#8).toNat < w0.params.romSize ∧
      w0.prevCarry = true ∧ r0.prevCarry = false := by decide

/-- ReturnGoesPastItsJsb. -/
theorem witness_jsb_return : w0.Inv ∧ ∃ t v, exec (.jsb 0x60) w0 = .next t ∧ exec .ret t = .next v :=
  ⟨witness_inv, _, _, rfl, rfl⟩

/-- KeyAndTraceCallsLatchTheirInputs: the codes where its clauses meet. -/
theorem witness_key : (255 : Nat) ≤ 255 ∧ 255 < 256 ∧ (∃ t, setKey 255 true w0 = .next t) :=
  ⟨by decide, by decide, ⟨_, rfl⟩⟩

/-- NewProcessorLoadsOrRefusesTheImage: parameters just out of range, no bank and a bank of half a page. -/
theorem witness_new_processor_range :
    ¬ (withCounts Params.default 0 16).wf ∧ ¬ (withCounts { Params.default with romSize := 128 } 1 16).wf := by decide

/-- `if 0 = s 4` on a set bit and a branch after it, with the pending page outside the bank. -/
abbrev wOutside : State :=
  { w1024 with delayedBank := 4, status := 0x0010, rom := [(0x040, 0x11C), (0x041, 0x003)] }

/-- A tick from `wOutside` goes on, latches a carry and leads to the branch. -/
theorem test_step_outside :
    (match step wOutside with
      | .next t => some (t.prevCarry, (decode t.params (fetchedWord t)).toOption)
      | _ => none) = some (true, some (.ifNcGoto 0)) := by decide

/-- BranchAfterATestFollowsItsVerdict, its second clause with the target outside the bank. -/
theorem witness_branch_outside :
    wOutside.Inv ∧ decode wOutside.params (fetchedWord wOutside) = .ok (.ifS0 4) ∧
      wOutside.params.romSize ≤ (pageAddress wOutside.delayedBank 0).toNat ∧
      ∃ t, step wOutside = .next t ∧ decode t.params (fetchedWord t) = .ok (.ifNcGoto 0) ∧ t.prevCarry = true := by
  refine ⟨⟨by decide, by decide, by unfold Memory.inside; decide, by decide, by decide, by decide, by decide, by decide,
    by decide, by decide, by decide, by decide, rfl, rfl, rfl⟩, rfl, by decide, ?_⟩
  have hs := test_step_outside
  split at hs
  · rename_i t ht
    simp only [Option.some.injEq, Prod.mk.injEq] at hs
    refine ⟨t, ht, ?_, hs.1⟩
    cases hd : decode t.params (fetchedWord t) <;> simp_all [Except.toOption]
  · cases hs

/-- NewProcessorLoadsOrRefusesTheImage: one cell too few, exactly enough, and the cells 0x3FF and 0x400. -/
theorem witness_new_processor :
    (withCounts { Params.default with romSize := 256 } 1 0).wf ∧
      (List.replicate 255 0x000#16).length < 1 * 256 ∧
      (1 * 256 ≤ (List.replicate 256 0x400#16).length ∧ ∃ c ∈ List.replicate 256 0x400#16, 1024 ≤ c.toNat) ∧
      (1 * 256 ≤ (List.replicate 256 0x3FF#16).length ∧ ∀ c ∈ List.replicate 256 0x3FF#16, c.toNat < 1024) := by
  simp only [List.length_replicate]
  refine ⟨by decide, by decide, ⟨le_rfl, 0x400#16, List.mem_replicate.2 ⟨by decide, rfl⟩, by decide⟩, le_rfl, ?_⟩
  intro c hc
  rw [List.eq_of_mem_replicate hc]
  decide

end Sys2Proof.Tests
end

section
/-!
PROOFS. No tick writes the ROM (spec/20_memory.md R62).

The ROM stands in one tuple with the other items that only the host writes.  Every primitive leaves that tuple alone,
and so does every way an instruction can end; each instruction is one primitive and one ending.
-/

namespace Sys2Proof.Machine

/-- The items of the state that only the host writes: the ROM image (R62), the parameters (R46), `rom_bank` (R28), MODE
(R39), TIMER (R40), TRACE (R41), `keycode` (R43) and `keydown` (R44). -/
def hostItems (s : State) : Memory × Params × Nat × Bool × Bool × Bool × BitVec 8 × Bool :=
  (s.rom, s.params, s.romBank, s.mode, s.timer, s.trace, s.keycode, s.keydown)

theorem hostItems_eq_iff {s t : State} :
    hostItems t = hostItems s ↔
      t.rom = s.rom ∧ t.params = s.params ∧ t.romBank = s.romBank ∧ t.mode = s.mode ∧ t.timer = s.timer ∧
        t.trace = s.trace ∧ t.keycode = s.keycode ∧ t.keydown = s.keydown := by
  simp only [hostItems, Prod.mk.injEq]

/-! ### The primitives -/

@[simp] theorem hostItems_setReg (X : RegName) (r : Reg) (s : State) : hostItems (s.setReg X r) = hostItems s := by
  simp [hostItems]

@[simp] theorem hostItems_setWindow (w : Window) (s : State) : hostItems (s.setWindow w) = hostItems s := rfl

@[simp] theorem hostItems_advance (n : Next) (s : State) : hostItems (advance n s) = hostItems s := rfl

@[simp] theorem hostItems_copy (w : Window) (dst : RegName) (src : Option RegName) (s : State) :
    hostItems (copy w dst src s) = hostItems s := hostItems_setReg _ _ s

@[simp] theorem hostItems_exch (w : Window) (x y : RegName) (s : State) : hostItems (exch w x y s) = hostItems s := by
  simp [exch]

@[simp] theorem hostItems_writeField (w : Window) (dst : Option RegName) (f : Nat → Nibble) (s : State) :
    hostItems (writeField w dst f s) = hostItems s := by
  cases dst with
  | none => rfl
  | some X => exact hostItems_setReg X _ s

@[simp] theorem hostItems_add (w : Window) (dst x y : Option RegName) (cin : Bool) (s : State) :
    hostItems (add w dst x y cin s) = hostItems s := hostItems_writeField w dst _ s

@[simp] theorem hostItems_sub (w : Window) (dst x y : Option RegName) (cin : Bool) (s : State) :
    hostItems (sub w dst x y cin s) = hostItems s := hostItems_writeField w dst _ s

@[simp] theorem hostItems_testEq (w : Window) (x y : Option RegName) (s : State) :
    hostItems (testEq w x y s) = hostItems s := rfl

@[simp] theorem hostItems_testNe (w : Window) (x y : Option RegName) (s : State) :
    hostItems (testNe w x y s) = hostItems s := rfl

@[simp] theorem hostItems_shr (w : Window) (x : RegName) (s : State) : hostItems (shr w x s) = hostItems s :=
  hostItems_setReg x _ s

@[simp] theorem hostItems_shl (w : Window) (x : RegName) (s : State) : hostItems (shl w x s) = hostItems s :=
  hostItems_setReg x _ s

/-! ### The ways an instruction ends -/

/-- A check before an instruction's effect (R271): when it goes on, the check was passed. -/
theorem raise_check_eq_next {c : Prop} [Decidable c] {mk : FaultRecord → Fault} {s t : State} {r : Result} :
    (if c then raise mk s else r) = .next t ↔ ¬ c ∧ r = .next t := by
  split <;> simp_all

theorem hostItems_of_finish {s u t : State} (h : finish u = .next t) (hu : hostItems u = hostItems s) :
    hostItems t = hostItems s := by
  rw [finish_eq_next.1 h, hostItems_advance, hu]

theorem hostItems_of_finishAt {target : Pc} {s u t : State} (h : finishAt target u = .next t)
    (hu : hostItems u = hostItems s) : hostItems t = hostItems s := by
  rw [finishAt_eq_next.1 h, hostItems_advance, hu]

theorem hostItems_of_arithmetic {fs : FieldMod} {op : Window → State → State} {s t : State}
    (h : arithmetic fs op s = .next t) (hop : ∀ w u, hostItems (op w u) = hostItems u) :
    hostItems t = hostItems s := by
  obtain ⟨w, -, rfl⟩ := arithmetic_eq_next.1 h
  rw [hostItems_advance, hop, hostItems_setWindow]

theorem hostItems_of_wholeRegister {op : State → State} {s t : State} (h : wholeRegister op s = .next t)
    (hop : ∀ u, hostItems (op u) = hostItems u) : hostItems t = hostItems s := by
  rw [wholeRegister_eq_next.1 h, hostItems_advance, hop, hostItems_setWindow]

/-! ### Every instruction and every tick -/

/-- The frame of every instruction: each is a primitive, or an update of items that are not the host's, inside one of
the endings above. -/
theorem hostItems_exec {i : Instr} {s t : State} (h : exec i s = .next t) : hostItems t = hostItems s := by
  cases i with
  | zeroA | zeroB | zeroC | copyAB | copyCA | copyBC =>
    exact hostItems_of_arithmetic h fun w u => hostItems_copy w _ _ u
  | exchAB | exchAC | exchBC => exact hostItems_of_arithmetic h fun w u => hostItems_exch w _ _ u
  | addABA | addACA | addCCC | addACC | incA | incC =>
    exact hostItems_of_arithmetic h fun w u => hostItems_add w _ _ _ _ u
  | subABA | subACC | subACA | decA | decC | negC | complC | ifAGeC | ifAGeB =>
    exact hostItems_of_arithmetic h fun w u => hostItems_sub w _ _ _ _ u
  | ifBZero | ifCZero => exact hostItems_of_arithmetic h fun w u => hostItems_testEq w _ _ u
  | ifANonzero | ifCNonzero => exact hostItems_of_arithmetic h fun w u => hostItems_testNe w _ _ u
  | shlA => exact hostItems_of_arithmetic h fun w u => hostItems_shl w _ u
  | shrA | shrB | shrC => exact hostItems_of_arithmetic h fun w u => hostItems_shr w _ u
  | m1ExchC | m2ExchC => exact hostItems_of_wholeRegister h fun u => hostItems_exch _ _ _ u
  | m1ToC | m2ToC | yToA => exact hostItems_of_wholeRegister h fun u => hostItems_copy _ _ _ u
  | clearRegisters =>
    simp only [exec, execClearRegisters] at h
    exact hostItems_of_wholeRegister h fun u => by simp only [hostItems_copy]
  | stackToA | downRotate | cToStack =>
    simp only [exec, execStackToA, execDownRotate, execCToStack] at h
    exact hostItems_of_wholeRegister h fun _ => rfl
  | nop | woodstock | binary | decimal | decP | incP | setP | cToDataAddress | clearDataRegisters | setS | clearS
  | ifS0 | ifS1 | ifPEq | ifPNe | delayedSelectRom | displayToggle | displayOff | fToA | fExchA =>
    exact hostItems_of_finish h rfl
  | resetS => exact hostItems_of_finish h (by split <;> rfl)
  | loadN =>
    obtain ⟨-, hnext⟩ := raise_check_eq_next.1 h
    exact hostItems_of_finish hnext rfl
  | keysToRom | ret => exact hostItems_of_finishAt h rfl
  | selectRom | jsb =>
    obtain ⟨-, hnext⟩ := raise_check_eq_next.1 h
    exact hostItems_of_finishAt hnext rfl
  | ifNcGoto =>
    simp only [exec, execIfNcGoto] at h
    split at h
    · exact hostItems_of_finish h rfl
    · obtain ⟨-, hnext⟩ := raise_check_eq_next.1 h
      exact hostItems_of_finishAt hnext rfl

/-- A tick that goes on is the execution of one instruction (R270), so it has the same frame. -/
theorem hostItems_step {s t : State} (h : step s = .next t) : hostItems t = hostItems s := by
  obtain ⟨-, i, -, hexec⟩ := step_eq_next.1 h
  exact hostItems_exec hexec

/-- Settles O18: the ROM is one of the items only the host writes. -/
theorem noInstructionWritesTheRom : Obligations.NoInstructionWritesTheRom := by
  unfold Obligations.NoInstructionWritesTheRom
  refine ⟨fun i s t h => ?_, fun s t h => ?_⟩
  · exact (hostItems_eq_iff.1 (hostItems_exec h)).1
  · exact (hostItems_eq_iff.1 (hostItems_step h)).1

end Sys2Proof.Machine
end

section
/-!
PROOFS. The decoder, and the pointer tables its words read (spec/30_encoding.md R91, R92, R95).

What a word can decode to is said once, per class.  A special operation's operand is then tied to `k = w[9:6]` through the
encoder's own selectors: the word decoded has a `k` that the operand admits.
-/

namespace Sys2Proof

/-! ### What the decoder can answer -/

/-- What a word that decodes is, class by class (R83 to R86, R95). -/
theorem decode_eq_ok {P : Params} {w : Word} {i : Instr} (h : decode P w = .ok i) :
    (w.extractLsb' 0 2 = 0 ∧ ∃ r, P.opcodeMap.special.find? (·.hits w) = some r ∧
      i = r.op.toInstr (w.extractLsb' 6 4)) ∨
    (w.extractLsb' 0 2 = 1 ∧ i = .jsb (w.extractLsb' 2 8)) ∨
    (w.extractLsb' 0 2 = 2 ∧ ∃ op, P.opcodeMap.arith[(w.extractLsb' 5 5).toNat]? = some op ∧
      i = op.toInstr (FieldMod.ofBits (w.extractLsb' 2 3))) ∨
    (w.extractLsb' 0 2 = 3 ∧ (P.class11Strict = true → w.extractLsb' 2 2 = 3) ∧ i = .ifNcGoto (w.extractLsb' 2 8)) := by
  unfold decode at h
  split at h
  next hclass =>
    split at h
    · next r hfind => exact .inl ⟨BitVec.eq_of_toNat_eq hclass, r, hfind, (Except.ok.inj h).symm⟩
    · cases h
  next hclass => exact .inr (.inl ⟨BitVec.eq_of_toNat_eq hclass, (Except.ok.inj h).symm⟩)
  next hclass =>
    split at h
    · next op hop => exact .inr (.inr (.inl ⟨BitVec.eq_of_toNat_eq hclass, op, hop, (Except.ok.inj h).symm⟩))
    · cases h
  next h0 h1 h2 =>
    have hlt := (w.extractLsb' 0 2).isLt
    have hclass : (w.extractLsb' 0 2).toNat = 3 := by
      simp only [imp_false] at h0 h1 h2
      omega
    split at h
    · cases h
    · next hstrict =>
      exact .inr (.inr (.inr ⟨BitVec.eq_of_toNat_eq hclass, by simpa using hstrict, (Except.ok.inj h).symm⟩))

/-- A class-10 word is the operation the map has at `w[9:5]`, with the field modifier `w[4:2]` (R82). -/
theorem decode_arith {P : Params} {w : Word} {op : ArithOp} (hclass : w.extractLsb' 0 2 = 2)
    (hop : P.opcodeMap.arith[(w.extractLsb' 5 5).toNat]? = some op) :
    decode P w = .ok (op.toInstr (FieldMod.ofBits (w.extractLsb' 2 3))) := by
  simp only [decode, hclass, hop, BitVec.reduceToNat]

/-- An unambiguous map has an operation at every index `op` (R86). -/
theorem OpcodeMap.wf.exists_arith {m : OpcodeMap} (h : m.wf) (k : BitVec 5) : ∃ op, m.arith[k.toNat]? = some op :=
  ⟨_, List.getElem?_eq_getElem (h.1 ▸ k.isLt)⟩

/-! ### The formats of decoded instructions -/

@[simp] theorem ArithOp.format_toInstr (op : ArithOp) (fs : FieldMod) : (op.toInstr fs).format = .arith op fs := by
  cases op <;> rfl

/-- The operand of a special instruction admits the `k` it was read from (R94). -/
theorem SpecialOp.format_toInstr (op : SpecialOp) (k : BitVec 4) :
    ∃ sel, (op.toInstr k).format = .special op sel ∧ sel.admits k = true := by
  cases op <;> exact ⟨_, rfl, by simp [Selector.admits]⟩

/-- Whatever special instruction a word decodes to, and by whatever map, its operand admits the word's `w[9:6]`. -/
theorem selector_admits_of_decode {P : Params} {w : Word} {i : Instr} {op : SpecialOp} {sel : Selector}
    (h : decode P w = .ok i) (hi : i.format = .special op sel) : sel.admits (w.extractLsb' 6 4) = true := by
  obtain ⟨-, r, -, rfl⟩ | ⟨-, rfl⟩ | ⟨-, aop, -, rfl⟩ | ⟨-, -, rfl⟩ := decode_eq_ok h
  · obtain ⟨sel', hformat, hadmits⟩ := r.op.format_toInstr (w.extractLsb' 6 4)
    obtain ⟨-, rfl⟩ := Format.special.inj (hformat.symm.trans hi)
    exact hadmits
  · cases hi
  · cases (aop.format_toInstr _).symm.trans hi
  · cases hi

/-! ### The pointer tables -/

/-- PSET holds the values 0 to 14 and no other (R91). -/
theorem exists_pSet_eq_iff (n : Nat) : (∃ k, pSet k = n) ↔ n ≤ 14 := by
  constructor
  · rintro ⟨k, rfl⟩
    revert k
    decide
  · have hall : ∀ n ≤ 14, ∃ k, pSet k = n := by decide
    exact hall n

/-- PTEST holds the values 0 to 13 and no other (R92). -/
theorem exists_pTest_eq_iff (n : Nat) : (∃ k, pTest k = n) ↔ n ≤ 13 := by
  constructor
  · rintro ⟨k, rfl⟩
    revert k
    decide
  · have hall : ∀ n ≤ 13, ∃ k, pTest k = n := by decide
    exact hall n

/-- Settles O4: the tables are compared entry by entry; a pointer instruction's selector admits exactly the indices of
its value. -/
theorem pointerTablesHoldTheirPrintedEntries : Obligations.PointerTablesHoldTheirPrintedEntries := by
  unfold Obligations.PointerTablesHoldTheirPrintedEntries
  refine ⟨by decide, by decide, exists_pSet_eq_iff, exists_pTest_eq_iff, by decide, by decide, by decide,
    fun P w n => ⟨fun h => ?_, fun h => ?_, fun h => ?_⟩⟩
  all_goals exact (eq_of_beq (selector_admits_of_decode h rfl)).symm

end Sys2Proof
end

section
/-!
PROOFS. The windows of arithmetic words (spec/30_encoding.md R82, R96).

Every instruction with a field modifier is one primitive inside `arithmetic`, and no primitive moves the window.
-/

namespace Sys2Proof.Machine

/-! ### The primitives of the arithmetic class -/

/-- The operations an arithmetic instruction performs on its window: the primitives of spec/40_field_ops.md (R122 to R132). -/
inductive FieldPrimitive : (Window → State → State) → Prop where
  | copy (dst : RegName) (src : Option RegName) : FieldPrimitive fun w => copy w dst src
  | exch (x y : RegName) : FieldPrimitive fun w => exch w x y
  | add (dst x y : Option RegName) (cin : Bool) : FieldPrimitive fun w => add w dst x y cin
  | sub (dst x y : Option RegName) (cin : Bool) : FieldPrimitive fun w => sub w dst x y cin
  | testEq (x y : Option RegName) : FieldPrimitive fun w => testEq w x y
  | testNe (x y : Option RegName) : FieldPrimitive fun w => testNe w x y
  | shr (x : RegName) : FieldPrimitive fun w => shr w x
  | shl (x : RegName) : FieldPrimitive fun w => shl w x

/-- Every instruction with a field modifier is one primitive over the window of that modifier (R150). -/
theorem exec_eq_arithmetic {i : Instr} {fs : FieldMod} (h : fieldMod? i = some fs) :
    ∃ op, FieldPrimitive op ∧ ∀ s, exec i s = arithmetic fs op s := by
  cases i with
  | zeroA | zeroB | zeroC | copyAB | copyCA | copyBC => cases h; exact ⟨_, .copy _ _, fun _ => rfl⟩
  | exchAB | exchAC | exchBC => cases h; exact ⟨_, .exch _ _, fun _ => rfl⟩
  | addABA | addACA | addCCC | addACC | incA | incC => cases h; exact ⟨_, .add _ _ _ _, fun _ => rfl⟩
  | subABA | subACC | subACA | decA | decC | negC | complC | ifAGeC | ifAGeB =>
    cases h; exact ⟨_, .sub _ _ _ _, fun _ => rfl⟩
  | ifBZero | ifCZero => cases h; exact ⟨_, .testEq _ _, fun _ => rfl⟩
  | ifANonzero | ifCNonzero => cases h; exact ⟨_, .testNe _ _, fun _ => rfl⟩
  | shrA | shrB | shrC => cases h; exact ⟨_, .shr _, fun _ => rfl⟩
  | shlA => cases h; exact ⟨_, .shl _, fun _ => rfl⟩
  | _ => cases h

@[simp] theorem writeField_first (w : Window) (dst : Option RegName) (f : Nat → Nibble) (s : State) :
    (writeField w dst f s).first = s.first := by
  cases dst <;> simp [writeField]

@[simp] theorem writeField_last (w : Window) (dst : Option RegName) (f : Nat → Nibble) (s : State) :
    (writeField w dst f s).last = s.last := by
  cases dst <;> simp [writeField]

/-- No primitive moves the window (R34). -/
theorem FieldPrimitive.keeps_window {op : Window → State → State} (h : FieldPrimitive op) (w : Window) (s : State) :
    (op w s).first = s.first ∧ (op w s).last = s.last := by
  cases h with
  | copy | shr | shl => exact ⟨setReg_first _ _ _, setReg_last _ _ _⟩
  | exch => simp [Machine.exch]
  | add | sub => exact ⟨writeField_first _ _ _ _, writeField_last _ _ _ _⟩
  | testEq | testNe => exact ⟨verdict_first _ _, verdict_last _ _⟩

/-! ### Where there is a window, and where there is none -/

/-- With no window the instruction is a DecoderFault (R96). -/
theorem exec_fault_of_window_none {i : Instr} {fs : FieldMod} {s : State} (hi : fieldMod? i = some fs)
    (hw : window fs s.p = none) : exec i s = .fault (.pointerWindow ⟨s.romBank, s.pc, fetchedWord s⟩) := by
  obtain ⟨op, -, hexec⟩ := exec_eq_arithmetic hi
  rw [hexec, arithmetic_eq_fault]
  exact ⟨hw, rfl⟩

/-- With a window the instruction goes on, and leaves that window in `first` and `last` (R34, R96). -/
theorem exec_next_of_window_some {i : Instr} {fs : FieldMod} {s : State} {w : Window} (hi : fieldMod? i = some fs)
    (hw : window fs s.p = some w) : ∃ t, exec i s = .next t ∧ t.first = w.first ∧ t.last = w.last := by
  obtain ⟨op, hop, hexec⟩ := exec_eq_arithmetic hi
  obtain ⟨hfirst, hlast⟩ := hop.keeps_window w (s.setWindow w)
  refine ⟨advance .seq (op w (s.setWindow w)), ?_, hfirst, hlast⟩
  rw [hexec, arithmetic_eq_next]
  exact ⟨w, hw, rfl⟩

/-- P and WP have a window below 14 nibbles (R96). -/
theorem window_of_pointer_le {p : Nat} (h : p ≤ 13) : window .p p = some ⟨p, p⟩ ∧ window .wp p = some ⟨0, p⟩ := by
  have hp : ¬ p ≥ nibbles := by simp only [nibbles]; omega
  exact ⟨if_neg hp, if_neg hp⟩

/-- P and WP have no window from 14 on (R96). -/
theorem window_of_pointer_gt {p : Nat} (h : 13 < p) : window .p p = none ∧ window .wp p = none := by
  have hp : p ≥ nibbles := h
  exact ⟨if_pos hp, if_pos hp⟩

/-- Settles O26: the word's fields from the decoder, the windows from their table, and the end of the instruction from
the one shape all arithmetic instructions have. -/
theorem fieldWindowsAreAsTabulated : Obligations.FieldWindowsAreAsTabulated := by
  unfold Obligations.FieldWindowsAreAsTabulated
  refine ⟨fun P w hwf hclass => ?_, by decide, fun _ => window_of_pointer_le, fun _ => window_of_pointer_gt,
    fun _ => ⟨rfl, rfl, rfl, rfl, rfl, rfl⟩, fun i fs s hi => ⟨fun hw => ?_, fun w hw => ?_⟩⟩
  · obtain ⟨op, hop⟩ := hwf.exists_arith (w.extractLsb' 5 5)
    exact ⟨op, hop, decode_arith hclass hop⟩
  · exact ⟨_, exec_fault_of_window_none hi hw, rfl⟩
  · exact exec_next_of_window_some hi hw

end Sys2Proof.Machine
end

section
/-!
PROOFS. The primitives over a field inside a register (spec/40_field_ops.md R122, R125, R127, R129 to R131).

Every primitive with a destination is one field write, so what each does to a nibble is one of two facts: the field
takes the new digits, and every other nibble stays.
-/

namespace Sys2Proof.Machine

/-! ### The field write, inside and outside its window -/

/-- A field write leaves every nibble outside the window alone (R120). -/
theorem sameOutside_overField (w : Window) (old : Reg) (f : Nat → Nibble) : SameOutside w old (overField w old f) := by
  intro k hk hout
  rw [nib_overField w old f hk, if_neg hout]

/-- A field write puts the new nibbles inside the window. -/
theorem nib_overField_inside {w : Window} (hlast : w.last ≤ 13) (old : Reg) (f : Nat → Nibble) {k : Nat}
    (hfirst : w.first ≤ k) (hk : k ≤ w.last) : (overField w old f).nib k = f k := by
  rw [nib_overField w old f (by omega), if_pos ⟨hfirst, hk⟩]

@[simp] theorem setReg_getReg (s : State) (X : RegName) : s.setReg X (s.getReg X) = s := by
  cases X <;> rfl

/-! ### Copy (R122) -/

/-- A register copied to itself changes nothing. -/
theorem copy_self (w : Window) (X : RegName) (s : State) : copy w X (some X) s = s := by
  simp only [copy, State.operand, overField_self, setReg_getReg]

/-! ### The right shift (R131) -/

theorem nib_shiftedRight_last {w : Window} (hle : w.first ≤ w.last) (hlast : w.last ≤ 13) (x : Reg) :
    (shiftedRight w x).nib w.last = 0 := by
  rw [shiftedRight, nib_overField_inside hlast x _ hle (le_refl _), if_pos rfl]

theorem nib_shiftedRight_of_lt {w : Window} (hlast : w.last ≤ 13) (x : Reg) {k : Nat} (hfirst : w.first ≤ k)
    (hk : k < w.last) : (shiftedRight w x).nib k = x.nib (k + 1) := by
  rw [shiftedRight, nib_overField_inside hlast x _ hfirst hk.le, if_neg hk.ne]

/-- Settles O27: a copy and a shift are field writes, read inside the window and outside; the tests' verdict is the
equality of the fields. -/
theorem copyTestAndShiftPrimitivesAreAsWritten : Obligations.CopyTestAndShiftPrimitivesAreAsWritten := by
  unfold Obligations.CopyTestAndShiftPrimitivesAreAsWritten
  intro w s hle hlast
  refine ⟨fun dst src => ?copy, fun X => copy_self w X s, fun x y => ?tests, fun X => ?shr⟩
  case copy =>
    refine ⟨_, rfl, sameOutside_overField w _ _, fun k hfirst hk => ?_⟩
    rw [nib_overField_inside hlast _ _ hfirst hk]
    cases src with
    | none => exact Reg.nib_zero k
    | some X => rfl
  case tests =>
    refine ⟨!fieldEq w (s.operand x) (s.operand y), rfl, rfl, ?_⟩
    rw [Bool.not_eq_false', fieldEq_iff w hlast]
  case shr =>
    exact ⟨_, rfl, sameOutside_overField w _ _, nib_shiftedRight_last hle hlast _,
      fun k => nib_shiftedRight_of_lt hlast _⟩

/-- Settles O28: the digits are one field write, discarded where the destination is absent (R124); the register written
and the carries are the digit-serial sum and difference, and CARRY is the carry into the nibble after the field. -/
theorem addAndSubtractPrimitivesAreDigitSerial : Obligations.AddAndSubtractPrimitivesAreDigitSerial := by
  unfold Obligations.AddAndSubtractPrimitivesAreDigitSerial
  intro w dst x y cin s _ hlast write old
  have hwrite (f : Nat → Nibble) : writeField w dst f s = write (overField w old f) := by
    cases dst with
    | none => rfl
    | some X => rfl
  refine ⟨⟨_, _, ?_, serialSum_add s.params s.base w hlast (s.operand x) (s.operand y) old cin⟩,
    ⟨_, _, ?_, serialDifference_sub s.params s.base w hlast (s.operand x) (s.operand y) old cin⟩⟩
  · rw [add, hwrite, addCarryOut_eq]
  · rw [sub, hwrite, subBorrowOut_eq]

end Sys2Proof.Machine
end

section
/-!
PROOFS. The decoder and the encoder answer each other (spec/30_encoding.md R82 to R90, R95, R101).

A word is cut into its fields once, per format.  The one idea is in the special class: rows of an unambiguous map do not
overlap, so the row a word meets is the row the decoder finds, and the encoder's word meets the row it was made from.
-/

namespace Sys2Proof

/-! ### The fields of a word (R82 to R85) -/

section Fields
variable (n : BitVec 5) (b : BitVec 3) (k : BitVec 4) (sub g class_ : BitVec 2) (t : BitVec 8)

@[simp] theorem arithWord_class : (n ++ b ++ class_).extractLsb' 0 2 = class_ := BitVec.extractLsb'_append_eq_right

@[simp] theorem arithWord_fs : (n ++ b ++ class_).extractLsb' 2 3 = b := by
  rw [BitVec.extractLsb'_append_eq_of_le (by decide)]
  exact BitVec.extractLsb'_append_eq_right

@[simp] theorem arithWord_op : (n ++ b ++ class_).extractLsb' 5 5 = n := by
  rw [BitVec.extractLsb'_append_eq_of_le (by decide)]
  exact BitVec.extractLsb'_append_eq_left

@[simp] theorem specialWord_class : (k ++ sub ++ g ++ class_).extractLsb' 0 2 = class_ :=
  BitVec.extractLsb'_append_eq_right

@[simp] theorem specialWord_g : (k ++ sub ++ g ++ class_).extractLsb' 2 2 = g := by
  rw [BitVec.extractLsb'_append_eq_of_le (by decide)]
  exact BitVec.extractLsb'_append_eq_right

@[simp] theorem specialWord_sub : (k ++ sub ++ g ++ class_).extractLsb' 4 2 = sub := by
  rw [BitVec.extractLsb'_append_eq_of_le (by decide), BitVec.extractLsb'_append_eq_of_le (by decide)]
  exact BitVec.extractLsb'_append_eq_right

@[simp] theorem specialWord_k : (k ++ sub ++ g ++ class_).extractLsb' 6 4 = k := by
  rw [BitVec.extractLsb'_append_eq_of_le (by decide), BitVec.extractLsb'_append_eq_of_le (by decide)]
  exact BitVec.extractLsb'_append_eq_left

@[simp] theorem branchWord_class : (t ++ class_).extractLsb' 0 2 = class_ := BitVec.extractLsb'_append_eq_right

@[simp] theorem branchWord_offset : (t ++ class_).extractLsb' 2 8 = t := BitVec.extractLsb'_append_eq_left

@[simp] theorem branchWord_subclass : (t ++ class_).extractLsb' 2 2 = t.extractLsb' 0 2 :=
  BitVec.extractLsb'_append_eq_of_le (by decide)

/-- The two low bits of the offset `w[9:2]` are the subclass `w[3:2]` (R84). -/
@[simp] theorem offset_subclass (w : Word) : (w.extractLsb' 2 8).extractLsb' 0 2 = w.extractLsb' 2 2 := by
  ext i hi
  simp [show i < 8 by omega]

end Fields

/-- A word of class 00 is its three fields of R85. -/
theorem eq_specialWord {w : Word} (hclass : w.extractLsb' 0 2 = 0) :
    w = w.extractLsb' 6 4 ++ w.extractLsb' 4 2 ++ w.extractLsb' 2 2 ++ 0b00#2 := by
  have hhigh : w.extractLsb' 6 4 ++ w.extractLsb' 4 2 = w.extractLsb' 4 6 :=
    BitVec.extractLsb'_append_extractLsb'_eq_extractLsb' rfl
  have hmid : w.extractLsb' 4 6 ++ w.extractLsb' 2 2 = w.extractLsb' 2 8 :=
    BitVec.extractLsb'_append_extractLsb'_eq_extractLsb' rfl
  have hwhole : w.extractLsb' 2 8 ++ w.extractLsb' 0 2 = w := BitVec.extractLsb'_append_extractLsb' (w := 8)
  rw [hclass] at hwhole
  rw [hhigh, hmid]
  exact hwhole.symm

@[simp] theorem FieldMod.ofBits_bits (fs : FieldMod) : FieldMod.ofBits fs.bits = fs := by
  cases fs <;> rfl

/-! ### The decoder, class by class (R95) -/

theorem SpecialRow.hits_iff (r : SpecialRow) (w : Word) :
    r.hits w = true ↔
      r.g = w.extractLsb' 2 2 ∧ r.sub = w.extractLsb' 4 2 ∧ (r.k = none ∨ r.k = some (w.extractLsb' 6 4)) := by
  simp [SpecialRow.hits, and_assoc]

theorem decode_special_hit {P : Params} {w : Word} {r : SpecialRow} (hclass : w.extractLsb' 0 2 = 0)
    (hfind : P.opcodeMap.special.find? (·.hits w) = some r) :
    decode P w = .ok (r.op.toInstr (w.extractLsb' 6 4)) := by
  simp only [decode, hclass, hfind]
  rfl

theorem decode_special_miss {P : Params} {w : Word} (hclass : w.extractLsb' 0 2 = 0)
    (hmiss : ∀ r ∈ P.opcodeMap.special, ¬ r.hits w = true) : decode P w = .error .illegalOpcode := by
  have hfind : P.opcodeMap.special.find? (·.hits w) = none := List.find?_eq_none.2 hmiss
  simp only [decode, hclass, hfind]
  rfl

theorem decode_jsb {P : Params} {w : Word} (hclass : w.extractLsb' 0 2 = 1) :
    decode P w = .ok (.jsb (w.extractLsb' 2 8)) := by
  simp only [decode, hclass, BitVec.reduceToNat]

theorem decode_branch {P : Params} {w : Word} (hclass : w.extractLsb' 0 2 = 3)
    (hstrict : P.class11Strict = false ∨ w.extractLsb' 2 2 = 3) :
    decode P w = .ok (.ifNcGoto (w.extractLsb' 2 8)) := by
  simp only [decode, hclass, BitVec.reduceToNat]
  rcases hstrict with h | h <;> simp [h]

theorem decode_strict_branch {P : Params} {w : Word} (hclass : w.extractLsb' 0 2 = 3)
    (hstrict : P.class11Strict = true) (hsub : w.extractLsb' 2 2 ≠ 3) : decode P w = .error .class11Subclass := by
  simp only [decode, hclass, BitVec.reduceToNat, hstrict, Bool.true_and]
  exact if_pos (bne_iff_ne.2 hsub)

/-! ### Unambiguous maps (R97) -/

/-- Two rows that one word meets overlap. -/
theorem SpecialRow.overlaps_of_hits {r q : SpecialRow} {w : Word} (hr : r.hits w = true) (hq : q.hits w = true) :
    r.overlaps q = true := by
  obtain ⟨hrg, hrsub, hrk⟩ := (r.hits_iff w).1 hr
  obtain ⟨hqg, hqsub, hqk⟩ := (q.hits_iff w).1 hq
  simp only [SpecialRow.overlaps, hrg, hqg, hrsub, hqsub, beq_self_eq_true, Bool.true_and]
  rcases hrk with h | h <;> rcases hqk with h' | h' <;> simp [h, h']

/-- In an unambiguous map a row that a word meets is the row the decoder finds. -/
theorem OpcodeMap.wf.find?_hits {m : OpcodeMap} (hwf : m.wf) {r : SpecialRow} {w : Word} (hr : r ∈ m.special)
    (hhits : r.hits w = true) : m.special.find? (·.hits w) = some r := by
  obtain ⟨front, back, hsplit⟩ := List.append_of_mem hr
  rw [List.find?_eq_some_iff_append]
  refine ⟨hhits, front, back, hsplit, fun q hq => ?_⟩
  have hpairs : m.special.Pairwise fun r q => r.overlaps q = false := hwf.2
  rw [hsplit, List.pairwise_append] at hpairs
  have hdisjoint : q.overlaps r = false := hpairs.2.2 q hq r List.mem_cons_self
  cases hqhits : q.hits w with
  | false => rfl
  | true => exact absurd (SpecialRow.overlaps_of_hits hqhits hhits) (by simp [hdisjoint])

/-! ### The encoder, format by format -/

/-- A special word is the word of a row of the map that holds the operation, at an index that row and operand admit. -/
theorem encodeSpecial_eq_some {rows : List SpecialRow} {op : SpecialOp} {sel : Selector} {w : Word}
    (h : encodeSpecial rows op sel = some w) :
    ∃ r ∈ rows, ∃ k, r.op = op ∧ sel.admits k = true ∧ (r.k = none ∨ r.k = some k) ∧
      w = k ++ r.sub ++ r.g ++ 0b00#2 := by
  obtain ⟨r, hr, hword⟩ := List.exists_of_findSome?_eq_some h
  split at hword
  next hop =>
    obtain ⟨k, hk, rfl⟩ := Option.map_eq_some_iff.1 hword
    have hadmits := List.find?_some hk
    simp only [Bool.and_eq_true, Bool.or_eq_true, Option.isNone_iff_eq_none, beq_iff_eq] at hadmits
    exact ⟨r, hr, k, hop, hadmits.1, hadmits.2, rfl⟩
  next => cases hword

theorem mem_selectors (k : BitVec 4) : k ∈ selectors :=
  List.mem_map.2 ⟨k.toNat, List.mem_range.2 k.isLt, BitVec.ofNat_toNat _ _ |>.trans (BitVec.setWidth_eq k)⟩

/-- The encoder has a word for every operation of the map, at every index the row and the operand admit. -/
theorem exists_encodeSpecial {rows : List SpecialRow} {sel : Selector} {r : SpecialRow} {k : BitVec 4} (hr : r ∈ rows)
    (hsel : sel.admits k = true) (hk : r.k = none ∨ r.k = some k) : ∃ w, encodeSpecial rows r.op sel = some w := by
  refine Option.isSome_iff_exists.1 (List.findSome?_isSome_iff.2 ⟨r, hr, ?_⟩)
  rw [if_pos rfl, Option.isSome_map, SpecialRow.selector, List.find?_isSome]
  exact ⟨k, mem_selectors k, by simpa [hsel] using hk⟩

end Sys2Proof
end

section
/-!
PROOFS. What the encoder emits decodes back, and which words decode to what (spec/30_encoding.md sections 2 to 6).

Decoding back is shown for each format's word; that an instruction has a word at all follows from its having a decoding.
-/

namespace Sys2Proof

/-! ### Format and instruction -/

open Laws.FormatRebuilds in
/-- The format of every instruction rebuilds it: the per-instruction family, assembled. -/
theorem formatRebuilds (i : Instr) : Laws.FormatRebuilds.Statement i := by
  cases i with
  | zeroA fs => exact zeroA fs
  | zeroB fs => exact zeroB fs
  | exchAB fs => exact exchAB fs
  | copyAB fs => exact copyAB fs
  | exchAC fs => exact exchAC fs
  | copyCA fs => exact copyCA fs
  | copyBC fs => exact copyBC fs
  | exchBC fs => exact exchBC fs
  | zeroC fs => exact zeroC fs
  | addABA fs => exact addABA fs
  | addACA fs => exact addACA fs
  | addCCC fs => exact addCCC fs
  | addACC fs => exact addACC fs
  | incA fs => exact incA fs
  | shlA fs => exact shlA fs
  | incC fs => exact incC fs
  | subABA fs => exact subABA fs
  | subACC fs => exact subACC fs
  | decA fs => exact decA fs
  | decC fs => exact decC fs
  | negC fs => exact negC fs
  | complC fs => exact complC fs
  | ifBZero fs => exact ifBZero fs
  | ifCZero fs => exact ifCZero fs
  | ifAGeC fs => exact ifAGeC fs
  | ifAGeB fs => exact ifAGeB fs
  | ifANonzero fs => exact ifANonzero fs
  | ifCNonzero fs => exact ifCNonzero fs
  | subACA fs => exact subACA fs
  | shrA fs => exact shrA fs
  | shrB fs => exact shrB fs
  | shrC fs => exact shrC fs
  | jsb t => exact jsb t
  | ifNcGoto t => exact ifNcGoto t
  | selectRom n => exact selectRom n
  | setS n => exact setS n
  | ifS1 n => exact ifS1 n
  | ifPEq n => exact ifPEq n
  | delayedSelectRom n => exact delayedSelectRom n
  | loadN n => exact loadN n
  | resetS n => exact resetS n
  | ifS0 n => exact ifS0 n
  | ifPNe n => exact ifPNe n
  | setP n => exact setP n
  | _ => exact fun _ _ => rfl

theorem eq_toInstr_of_format_arith {i : Instr} {op : ArithOp} {fs : FieldMod} (h : i.format = .arith op fs) :
    i = op.toInstr fs := by
  have := formatRebuilds i
  simp only [Laws.FormatRebuilds.Statement, h, FieldMod.ofBits_bits] at this
  exact this.symm

theorem eq_toInstr_of_format_special {i : Instr} {op : SpecialOp} {sel : Selector} {k : BitVec 4}
    (h : i.format = .special op sel) (hk : sel.admits k = true) : i = op.toInstr k := by
  have := formatRebuilds i
  simp only [Laws.FormatRebuilds.Statement, h] at this
  exact (this k hk).symm

theorem eq_jsb_of_format {i : Instr} {t : BitVec 8} (h : i.format = .jsb t) : i = .jsb t := by
  have := formatRebuilds i
  simpa only [Laws.FormatRebuilds.Statement, h] using this

theorem eq_ifNcGoto_of_format {i : Instr} {t : BitVec 8} (h : i.format = .branch t) : i = .ifNcGoto t := by
  have := formatRebuilds i
  simpa only [Laws.FormatRebuilds.Statement, h] using this

/-! ### Encoding and decoding back -/

/-- The arithmetic word of R82 at the index of the operation decodes to that operation. -/
theorem decode_arithWord {P : Params} {op : ArithOp} {fs : FieldMod} {n : Nat}
    (h : (P.opcodeMap.arith.take 32).findIdx? (· == op) = some n) :
    decode P (BitVec.ofNat 5 n ++ fs.bits ++ 0b10#2) = .ok (op.toInstr fs) := by
  obtain ⟨hlt, hop, -⟩ := List.findIdx?_eq_some_iff_getElem.1 h
  have hn : n < 32 := by rw [List.length_take] at hlt; omega
  have hget : P.opcodeMap.arith[n]? = some op := by
    rw [← List.getElem?_take_of_lt hn, List.getElem?_eq_getElem hlt, eq_of_beq hop]
  have hindex : (BitVec.ofNat 5 n).toNat = n := by rw [BitVec.toNat_ofNat]; omega
  have hdecode := decode_arith (P := P) (op := op) (w := BitVec.ofNat 5 n ++ fs.bits ++ 0b10#2) (arithWord_class _ _ _)
    (by rw [arithWord_op, hindex, hget])
  rwa [arithWord_fs, FieldMod.ofBits_bits] at hdecode

/-- The word of a row, at an index the row admits, decodes to the row's operation (R85, R95). -/
theorem decode_rowWord {P : Params} (hwf : P.opcodeMap.wf) {r : SpecialRow} (hr : r ∈ P.opcodeMap.special) {k : BitVec 4}
    (hk : r.k = none ∨ r.k = some k) : decode P (k ++ r.sub ++ r.g ++ 0b00#2) = .ok (r.op.toInstr k) := by
  have hhits : r.hits (k ++ r.sub ++ r.g ++ 0b00#2) = true := by
    rw [SpecialRow.hits_iff, specialWord_g, specialWord_sub, specialWord_k]
    exact ⟨rfl, rfl, hk⟩
  have hdecode := decode_special_hit (specialWord_class _ _ _ _) (hwf.find?_hits hr hhits)
  rwa [specialWord_k] at hdecode

theorem decode_jsbWord (P : Params) (t : BitVec 8) : decode P (t ++ 0b01#2) = .ok (.jsb t) := by
  have hdecode := decode_jsb (P := P) (branchWord_class 1 t)
  rwa [branchWord_offset] at hdecode

theorem decode_branchWord {P : Params} {t : BitVec 8} (h : P.class11Strict = false ∨ t.extractLsb' 0 2 = 3) :
    decode P (t ++ 0b11#2) = .ok (.ifNcGoto t) := by
  have hdecode := decode_branch (P := P) (branchWord_class 3 t) (by rwa [branchWord_subclass])
  rwa [branchWord_offset] at hdecode

theorem decode_of_encode {P : Params} (hwf : P.opcodeMap.wf) {i : Instr} {w : Word} (h : encode P i = some w) :
    decode P w = .ok i := by
  unfold encode at h
  split at h
  next op fs hformat =>
    obtain ⟨n, hn, rfl⟩ := Option.map_eq_some_iff.1 h
    rw [decode_arithWord hn, eq_toInstr_of_format_arith hformat]
  next op sel hformat =>
    obtain ⟨r, hr, k, rfl, hsel, hk, rfl⟩ := encodeSpecial_eq_some h
    rw [decode_rowWord hwf hr hk, eq_toInstr_of_format_special hformat hsel]
  next t hformat =>
    cases h
    rw [eq_jsb_of_format hformat, decode_jsbWord]
  next t hformat =>
    split at h
    · cases h
    · next hstrict =>
      cases h
      rw [eq_ifNcGoto_of_format hformat, decode_branchWord (by simpa [or_iff_not_imp_left] using hstrict)]

/-- Settles O1: an arithmetic word by its index in the map, a special word by the row it was made from, a branch by its
class. -/
theorem decodeOfEncodeIsIdentity : Obligations.DecodeOfEncodeIsIdentity := by
  unfold Obligations.DecodeOfEncodeIsIdentity
  exact fun P hwf i w => decode_of_encode hwf

/-! ### Which instructions have a word -/

theorem exists_encode_of_format_arith {P : Params} {i : Instr} {op : ArithOp} {fs : FieldMod}
    (hformat : i.format = .arith op fs) (hop : op ∈ P.opcodeMap.arith.take 32) : ∃ w, encode P i = some w := by
  refine Option.isSome_iff_exists.1 ?_
  simp only [encode, hformat, Option.isSome_map, List.findIdx?_isSome, List.any_eq_true]
  exact ⟨op, hop, beq_self_eq_true op⟩

theorem exists_encode_of_format_special {P : Params} {i : Instr} {r : SpecialRow} {sel : Selector} {k : BitVec 4}
    (hformat : i.format = .special r.op sel) (hr : r ∈ P.opcodeMap.special) (hsel : sel.admits k = true)
    (hk : r.k = none ∨ r.k = some k) : ∃ w, encode P i = some w := by
  simp only [encode, hformat]
  exact exists_encodeSpecial hr hsel hk

theorem exists_encode_jsb (P : Params) (t : BitVec 8) : ∃ w, encode P (.jsb t) = some w := ⟨_, rfl⟩

theorem exists_encode_ifNcGoto {P : Params} {t : BitVec 8} (h : P.class11Strict = true → t.extractLsb' 0 2 = 3) :
    ∃ w, encode P (.ifNcGoto t) = some w := by
  refine ⟨_, if_neg ?_⟩
  simpa using h

/-- A special operation's operand is in range: the pointer tables hold no other values (R91, R92). -/
theorem SpecialOp.wellFormed_toInstr (op : SpecialOp) (k : BitVec 4) : (op.toInstr k).WellFormed = true := by
  cases op with
  | ifPEq | ifPNe => exact decide_eq_true ((exists_pTest_eq_iff _).1 ⟨k, rfl⟩)
  | setP => exact decide_eq_true ((exists_pSet_eq_iff _).1 ⟨k, rfl⟩)
  | _ => rfl

theorem ArithOp.wellFormed_toInstr (op : ArithOp) (fs : FieldMod) : (op.toInstr fs).WellFormed = true := by
  cases op <;> rfl

theorem decode_wellFormed {P : Params} {w : Word} {i : Instr} (h : decode P w = .ok i) : i.WellFormed = true := by
  obtain ⟨-, r, -, rfl⟩ | ⟨-, rfl⟩ | ⟨-, op, -, rfl⟩ | ⟨-, -, rfl⟩ := decode_eq_ok h
  · exact r.op.wellFormed_toInstr _
  · rfl
  · exact op.wellFormed_toInstr _
  · rfl

/-- Whatever a word decodes to has a word: the operation is at an index of the map below 32, or in the row found. -/
theorem exists_encode_of_decode {P : Params} {w : Word} {i : Instr} (h : decode P w = .ok i) :
    ∃ w', encode P i = some w' := by
  obtain ⟨-, r, hfind, rfl⟩ | ⟨-, rfl⟩ | ⟨-, op, hop, rfl⟩ | ⟨-, hstrict, rfl⟩ := decode_eq_ok h
  · obtain ⟨sel, hformat, hsel⟩ := r.op.format_toInstr (w.extractLsb' 6 4)
    obtain ⟨-, -, hk⟩ := (r.hits_iff w).1 (List.find?_some (p := fun r : SpecialRow => r.hits w) hfind)
    exact exists_encode_of_format_special hformat (List.mem_of_find?_eq_some hfind) hsel hk
  · exact exists_encode_jsb P _
  · refine exists_encode_of_format_arith (op.format_toInstr _) (List.mem_of_getElem? (i := (w.extractLsb' 5 5).toNat) ?_)
    rw [List.getElem?_take_of_lt (w.extractLsb' 5 5).isLt, hop]
  · exact exists_encode_ifNcGoto (by simpa using hstrict)

/-- Settles O3: both tables and the map's rows hold only what the encoder can emit. -/
theorem decodedInstructionIsWellFormedAndReencodes : Obligations.DecodedInstructionIsWellFormedAndReencodes := by
  unfold Obligations.DecodedInstructionIsWellFormedAndReencodes
  intro P w i hwf hdecode
  obtain ⟨w', hencode⟩ := exists_encode_of_decode hdecode
  exact ⟨decode_wellFormed hdecode, w', hencode, decode_of_encode hwf hencode⟩

/-! ### The default map (R86 to R90) -/

theorem defaultMap_wf : Params.default.opcodeMap.wf := by decide

/-- The default map holds every arithmetic operation (R86). -/
theorem mem_default_arith (op : ArithOp) : op ∈ Params.default.opcodeMap.arith.take 32 := by
  cases op <;> decide

/-- The default map has a row for every special operation: one for every `k`, or one `k` for an operation that takes no
operand (R87 to R90). -/
theorem exists_default_row (op : SpecialOp) :
    ∃ r ∈ Params.default.opcodeMap.special, r.op = op ∧
      (r.k = none ∨ (op.toInstr 0).format = .special op .absent) := by
  cases op <;> decide

/-- Some index stands for the operand of a well-formed special instruction (R91, R92). -/
theorem exists_admitted_selector {i : Instr} {op : SpecialOp} {sel : Selector} (hformat : i.format = .special op sel)
    (hwell : i.WellFormed = true) : ∃ k, sel.admits k = true := by
  cases sel with
  | absent => exact ⟨0, rfl⟩
  | direct k => exact ⟨k, beq_self_eq_true k⟩
  | ptest n =>
    have hn : n ≤ 13 := by cases i <;> cases hformat <;> exact of_decide_eq_true hwell
    exact ((exists_pTest_eq_iff n).2 hn).imp fun _ => beq_iff_eq.2
  | pset n =>
    have hn : n ≤ 14 := by cases i <;> cases hformat; exact of_decide_eq_true hwell
    exact ((exists_pSet_eq_iff n).2 hn).imp fun _ => beq_iff_eq.2

/-- A well-formed special instruction is the decoding of a row's word. -/
theorem exists_default_word_of_special {i : Instr} {op : SpecialOp} {sel : Selector} (hformat : i.format = .special op sel)
    (hwell : i.WellFormed = true) : ∃ w, decode Params.default w = .ok i := by
  obtain ⟨k, hk⟩ := exists_admitted_selector hformat hwell
  obtain ⟨r, hr, rfl, hrow⟩ := exists_default_row op
  obtain rfl := eq_toInstr_of_format_special hformat hk
  cases hrk : r.k with
  | none => exact ⟨_, decode_rowWord defaultMap_wf hr (.inl hrk)⟩
  | some k' =>
    have habsent := hrow.resolve_left (by simp [hrk])
    have hconst : r.op.toInstr k = r.op.toInstr k' :=
      (eq_toInstr_of_format_special habsent rfl).symm.trans (eq_toInstr_of_format_special habsent rfl)
    exact ⟨_, hconst ▸ decode_rowWord defaultMap_wf hr (.inr hrk)⟩

/-- Settles O2: every operation is in the default map, and every operand has an index; what has a decoding has a word. -/
theorem everyWellFormedInstructionHasADefaultWord : Obligations.EveryWellFormedInstructionHasADefaultWord := by
  unfold Obligations.EveryWellFormedInstructionHasADefaultWord
  intro i hwell
  have hword : ∃ w, encode Params.default i = some w := by
    cases hformat : i.format with
    | arith op fs => exact exists_encode_of_format_arith hformat (mem_default_arith op)
    | special op sel =>
      obtain ⟨w, hdecode⟩ := exists_default_word_of_special hformat hwell
      exact exists_encode_of_decode hdecode
    | jsb t => exact eq_jsb_of_format hformat ▸ exists_encode_jsb _ t
    | branch t => exact eq_ifNcGoto_of_format hformat ▸ exists_encode_ifNcGoto nofun
  exact hword.imp fun w hw => ⟨hw, decode_of_encode defaultMap_wf hw⟩

/-! ### Which words decode, and to what -/

/-- Settles O6: classes 01 and 11 from the decoder, class 00 by the row the word meets, a direct operand by its selector. -/
theorem branchAndSpecialWordsDecodeTheirFields : Obligations.BranchAndSpecialWordsDecodeTheirFields := by
  unfold Obligations.BranchAndSpecialWordsDecodeTheirFields
  refine fun P w => ⟨decode_jsb, decode_strict_branch, decode_branch, fun hwf hclass r hr hg hsub hk => ?row,
    fun hclass hmiss => ?noRow, fun e he n hdecode => ?operand⟩
  case row => exact decode_special_hit hclass (hwf.find?_hits hr ((r.hits_iff w).2 ⟨hg, hsub, hk⟩))
  case noRow => exact decode_special_miss hclass fun r hr hhits => hmiss r hr ((r.hits_iff w).1 hhits)
  case operand =>
    have hformat : ∃ op, (e n).format = .special op (.direct n) := by
      simp only [List.mem_cons, List.not_mem_nil, or_false] at he
      rcases he with rfl | rfl | rfl | rfl | rfl | rfl | rfl <;> exact ⟨_, rfl⟩
    obtain ⟨op, hop⟩ := hformat
    exact eq_of_beq (selector_admits_of_decode hdecode hop)

/-- What the decoder calls illegal (R97): a special word that meets no row, an arithmetic index the map lacks. -/
theorem decode_eq_illegalOpcode_iff {P : Params} {w : Word} (hwf : P.opcodeMap.wf) :
    decode P w = .error .illegalOpcode ↔
      w.extractLsb' 0 2 = 0 ∧ ∀ r ∈ P.opcodeMap.special, ¬ r.hits w = true := by
  refine ⟨fun h => ?_, fun ⟨hclass, hmiss⟩ => decode_special_miss hclass hmiss⟩
  have hclasses : ∀ c : BitVec 2, c = 0 ∨ c = 1 ∨ c = 2 ∨ c = 3 := by decide
  obtain hclass | hclass | hclass | hclass := hclasses (w.extractLsb' 0 2)
  · refine ⟨hclass, fun r hr hhits => ?_⟩
    cases (decode_special_hit hclass (hwf.find?_hits hr hhits)).symm.trans h
  · cases (decode_jsb hclass).symm.trans h
  · obtain ⟨op, hop⟩ := hwf.exists_arith (w.extractLsb' 5 5)
    cases (decode_arith hclass hop).symm.trans h
  · by_cases hstrict : P.class11Strict = false ∨ w.extractLsb' 2 2 = 3
    · cases (decode_branch hclass hstrict).symm.trans h
    · obtain ⟨hs, hsub⟩ := not_or.1 hstrict
      cases (decode_strict_branch hclass (Bool.not_eq_false _ ▸ hs) hsub).symm.trans h

/-- The special words that meet no row of the default map, by group (R97). -/
theorem default_miss_iff (k : BitVec 4) (sub g : BitVec 2) :
    (∀ r ∈ Params.default.opcodeMap.special, ¬ r.hits (k ++ sub ++ g ++ 0b00#2) = true) ↔
      (g = 0 ∧ sub ≠ 2 ∧ k ++ sub ++ g ++ 0b00#2 ∉
          [0x000#10, 0x010#10, 0x050#10, 0x070#10, 0x080#10, 0x090#10, 0x270#10, 0x2B0#10, 0x3F0#10]) ∨
        (g = 2 ∧ (k ++ sub ++ g ++ 0b00#2 = 0x348#10 ∨ sub = 2 ∨ sub = 3)) := by
  revert k sub g
  decide

/-- Settles O5: a word is illegal when it is special and meets no row, which is read off the default map's rows. -/
theorem illegalWordsOfTheDefaultMap : Obligations.IllegalWordsOfTheDefaultMap := by
  unfold Obligations.IllegalWordsOfTheDefaultMap
  intro w
  rw [decode_eq_illegalOpcode_iff defaultMap_wf]
  refine and_congr_right fun hclass => ?_
  have hword := eq_specialWord hclass
  have hmiss := default_miss_iff (w.extractLsb' 6 4) (w.extractLsb' 4 2) (w.extractLsb' 2 2)
  rwa [← hword] at hmiss

/-- The arithmetic words of the default map, by index and field modifier (R82, R86). -/
theorem decode_default_arith {n : BitVec 5} {b : BitVec 3} {i : Instr}
    (h : (defaultArith[n.toNat]?).map (·.toInstr (FieldMod.ofBits b)) = some i) :
    decode Params.default (n ++ b ++ 0b10#2) = .ok i := by
  obtain ⟨op, hop, rfl⟩ := Option.map_eq_some_iff.1 h
  have hdecode := decode_arith (P := Params.default) (arithWord_class n b 2) (by rw [arithWord_op]; exact hop)
  rwa [arithWord_fs] at hdecode

/-- Settles O7: the arithmetic words by their index in R86's table, for every field modifier; the special words, which
are finitely many, by evaluating the decoder. -/
theorem writtenOutWordsDecode : Obligations.WrittenOutWordsDecode := by
  unfold Obligations.WrittenOutWordsDecode
  refine ⟨fun b => ?_, by decide, by decide, by decide⟩
  iterate 32 refine List.forall_mem_cons.2 ⟨decode_default_arith rfl, ?_⟩
  exact List.forall_mem_nil _

end Sys2Proof
end

section
/-!
PROOFS. Who writes what (spec/10_state.md R23, R25, R28 to R36, R39 to R45; spec/45_control_and_tick.md R281, R285, R286).

One equation says it all: the state after an instruction is the state before with each item taken from the new state
where the instruction is one of the item's writers.  The statements on writers are its projections.
-/

namespace Sys2Proof.Machine

/-- The instruction is `jsb`, the one that pushes. -/
def isJsb : Instr → Bool
  | .jsb _ => true
  | _ => false

/-- `s` with the items of `t` that instruction `i` may write.  The window, the pc and the carries are every
instruction's to write; the other items have the writers the spec lists. -/
def withWritten (i : Instr) (s t : State) : State :=
  { s with
    regA := if isArith i [.zeroA, .exchAB, .exchAC, .copyCA, .addABA, .addACA, .incA, .subABA, .decA, .subACA, .shrA,
        .shlA] || isSpecial i [.stackToA, .yToA, .fToA, .fExchA, .clearRegisters] then t.regA else s.regA
    regB := if isArith i [.zeroB, .copyAB, .exchAB, .exchBC, .shrB] || isSpecial i [.clearRegisters] then t.regB
      else s.regB
    regC := if isArith i [.zeroC, .exchAC, .copyBC, .exchBC, .addCCC, .addACC, .incC, .subACC, .decC, .negC, .complC,
        .shrC] || isSpecial i [.m1ToC, .m2ToC, .m1ExchC, .m2ExchC, .downRotate, .loadN, .clearRegisters] then t.regC
      else s.regC
    regY := if isSpecial i [.stackToA, .downRotate, .cToStack, .clearRegisters] then t.regY else s.regY
    regZ := if isSpecial i [.stackToA, .downRotate, .cToStack, .clearRegisters] then t.regZ else s.regZ
    regT := if isSpecial i [.downRotate, .cToStack, .clearRegisters] then t.regT else s.regT
    regM := if isSpecial i [.m1ExchC, .clearRegisters] then t.regM else s.regM
    regN := if isSpecial i [.m2ExchC, .clearRegisters] then t.regN else s.regN
    ram := if isSpecial i [.clearDataRegisters] then t.ram else s.ram
    stack := if isJsb i then t.stack else s.stack
    sp := if isJsb i || isSpecial i [.ret] then t.sp else s.sp
    delayedBank := if isSpecial i [.delayedSelectRom] then t.delayedBank else s.delayedBank
    delayedRom := if isSpecial i [.delayedSelectRom] || isBranch i then t.delayedRom else s.delayedRom
    p := if isSpecial i [.decP, .incP, .setP, .loadN] then t.p else s.p
    f := if isSpecial i [.fExchA] then t.f else s.f
    base := if isSpecial i [.binary, .decimal] then t.base else s.base
    status := if isSpecial i [.setS, .resetS, .clearS] then t.status else s.status
    displayEnable := if isSpecial i [.displayToggle, .displayOff] then t.displayEnable else s.displayEnable
    address := if isSpecial i [.cToDataAddress] then t.address else s.address
    first := t.first, last := t.last, pc := t.pc, prevCarry := t.prevCarry, carry := t.carry }

/-- The frame of every instruction, read off the update that each one is. -/
theorem exec_eq_withWritten {i : Instr} {s t : State} (h : exec i s = .next t) : t = withWritten i s t := by
  cases i with
  | m1ExchC | m1ToC | m2ExchC | m2ToC | yToA =>
    obtain rfl := wholeRegister_eq_next.1 h
    rfl
  | stackToA | downRotate | cToStack | clearRegisters =>
    simp only [exec, execStackToA, execDownRotate, execCToStack, execClearRegisters] at h
    obtain rfl := wholeRegister_eq_next.1 h
    rfl
  | nop | woodstock | binary | decimal | decP | incP | setP | cToDataAddress | clearDataRegisters | setS | clearS
  | ifS0 | ifS1 | ifPEq | ifPNe | delayedSelectRom | displayToggle | displayOff | fToA | fExchA =>
    obtain rfl := finish_eq_next.1 h
    rfl
  | resetS n =>
    obtain rfl := finish_eq_next.1 h
    split <;> rfl
  | loadN =>
    obtain ⟨-, hnext⟩ := raise_check_eq_next.1 h
    obtain rfl := finish_eq_next.1 hnext
    rfl
  | keysToRom | ret =>
    obtain rfl := finishAt_eq_next.1 h
    rfl
  | selectRom | jsb =>
    obtain ⟨-, hnext⟩ := raise_check_eq_next.1 h
    obtain rfl := finishAt_eq_next.1 hnext
    rfl
  | ifNcGoto =>
    simp only [exec, execIfNcGoto] at h
    split at h
    · obtain rfl := finish_eq_next.1 h
      rfl
    · obtain ⟨-, hnext⟩ := raise_check_eq_next.1 h
      obtain rfl := finishAt_eq_next.1 hnext
      rfl
  | _ =>
    obtain ⟨w, -, rfl⟩ := arithmetic_eq_next.1 h
    rfl

/-- Settles O19: these are items only the host writes. -/
theorem tickLeavesHostOwnedStateAlone : Obligations.TickLeavesHostOwnedStateAlone := by
  unfold Obligations.TickLeavesHostOwnedStateAlone
  exact fun s t h => (hostItems_eq_iff.1 (hostItems_step h)).2

/-- Settles O22: the registers of the frame. -/
theorem registerWritersAreAsTabulated : Obligations.RegisterWritersAreAsTabulated := by
  unfold Obligations.RegisterWritersAreAsTabulated
  intro s t i h
  rw [exec_eq_withWritten h]
  refine ⟨fun ha hs => ?_, fun ha hs => ?_, fun ha hs => ?_, fun hs => ⟨?_, ?_⟩, fun hs => ?_, fun hs => ?_,
    fun hs => ?_⟩
  all_goals simp only [withWritten, *, Bool.or_self, Bool.false_eq_true, if_false]

/-- Settles O23: the items outside the register file. -/
theorem specialStateWritersAreAsListed : Obligations.SpecialStateWritersAreAsListed := by
  unfold Obligations.SpecialStateWritersAreAsListed
  intro s t i h
  rw [exec_eq_withWritten h]
  refine ⟨?_, ?_, ?_, ?_, ?_, ?_, ?_⟩
  all_goals exact fun hs => by simp only [withWritten, hs, Bool.false_eq_true, if_false]

theorem isJsb_eq_false {i : Instr} (h : ∀ L, i ≠ .jsb L) : isJsb i = false := by
  cases i with
  | jsb L => exact absurd rfl (h L)
  | _ => rfl

theorem isSpecial_ret_eq_false {i : Instr} (h : i ≠ .ret) : isSpecial i [.ret] = false := by
  cases i with
  | ret => exact absurd rfl h
  | _ => rfl

/-- A branch makes no selection pending: it commits one or leaves it (R280, R281). -/
theorem delayedRom_of_branch {i : Instr} {s t : State} (hi : isBranch i = true) (h : exec i s = .next t)
    (ht : t.delayedRom = true) : s.delayedRom = true := by
  cases i with
  | jsb L =>
    obtain ⟨-, hnext⟩ := raise_check_eq_next.1 h
    obtain rfl := finishAt_eq_next.1 hnext
    cases ht
  | ifNcGoto L =>
    simp only [exec, execIfNcGoto] at h
    split at h
    · obtain rfl := finish_eq_next.1 h
      exact ht
    · obtain ⟨-, hnext⟩ := raise_check_eq_next.1 h
      obtain rfl := finishAt_eq_next.1 hnext
      cases ht
  | _ => cases hi

/-- `delayed select rom n` makes its selection pending (R225). -/
theorem delayedRom_of_delayedSelectRom {i : Instr} {s t : State} (hi : isSpecial i [.delayedSelectRom] = true)
    (h : exec i s = .next t) : t.delayedRom = true := by
  cases i with
  | delayedSelectRom n =>
    obtain rfl := finish_eq_next.1 h
    rfl
  | _ => cases hi

/-- The pending selection stays where neither `delayed select rom n` nor a branch writes it (R281). -/
theorem delayedRom_eq_of_exec {i : Instr} {s t : State} (h : exec i s = .next t)
    (hselect : isSpecial i [.delayedSelectRom] = false) (hbranch : isBranch i = false) : t.delayedRom = s.delayedRom := by
  rw [exec_eq_withWritten h]
  simp only [withWritten, hselect, hbranch, Bool.or_self, Bool.false_eq_true, if_false]

/-- Settles O24: the stack and the selection of the frame, and what the writers of the flag do to it. -/
theorem stackAndSelectionWritersAreAsListed : Obligations.StackAndSelectionWritersAreAsListed := by
  unfold Obligations.StackAndSelectionWritersAreAsListed
  intro s t i h
  have hframe := exec_eq_withWritten h
  refine ⟨fun hjsb => ?stack, fun hjsb hret => ?sp, fun hselect => ⟨?bank, fun ht => ?notMade⟩, fun hbranch hs => ?notEnded⟩
  case stack =>
    rw [hframe]
    simp only [withWritten, isJsb_eq_false hjsb, Bool.false_eq_true, if_false]
  case sp =>
    rw [hframe]
    simp only [withWritten, isJsb_eq_false hjsb, isSpecial_ret_eq_false hret, Bool.or_self, Bool.false_eq_true, if_false]
  case bank =>
    rw [hframe]
    simp only [withWritten, hselect, Bool.false_eq_true, if_false]
  case notMade =>
    cases hbranch : isBranch i with
    | true => exact delayedRom_of_branch hbranch h ht
    | false => exact delayedRom_eq_of_exec h hselect hbranch ▸ ht
  case notEnded =>
    cases hselect : isSpecial i [.delayedSelectRom] with
    | true => exact delayedRom_of_delayedSelectRom hselect h
    | false => exact (delayedRom_eq_of_exec h hselect hbranch).trans hs

end Sys2Proof.Machine
end

section
/-!
PROOFS. How an instruction ends (spec/45_control_and_tick.md R272 to R275): one latch, one advance.

Every instruction that goes on is an operation followed by `advance`.  Which operations write CARRY and which answer a
net target is said once; the statements on the latch, the carry and the pc follow.
-/

namespace Sys2Proof.Machine

/-- The arithmetic operations that write CARRY and are no shift: adds, subtracts, comparisons and zero tests (R377). -/
abbrev carryOps : List ArithOp :=
  [.addABA, .addACA, .addCCC, .addACC, .incA, .incC, .subABA, .subACC, .subACA, .decA, .decC, .negC, .complC, .ifAGeC,
    .ifAGeB, .ifBZero, .ifCZero, .ifANonzero, .ifCNonzero]

/-- The shifts, which clear CARRY (R131, R132). -/
abbrev shiftOps : List ArithOp := [.shrA, .shrB, .shrC, .shlA]

/-- The status and pointer tests (R223, R224, R227, R228). -/
abbrev testOps : List SpecialOp := [.ifS1, .ifS0, .ifPEq, .ifPNe]

/-- The transfers of R275: the instructions whose next pc is a net target. -/
def transfers (i : Instr) (s : State) : Bool :=
  match i with
  | .jsb _ => true
  | .ifNcGoto _ => !s.prevCarry
  | _ => isSpecial i [.ret, .keysToRom, .selectRom]

/-- How an instruction that goes on ends: with the advance, from a state `u` whose pc and parameters are the tick's own,
whose CARRY is the one found unless the operation writes it, and to the sequential pc unless it transfers. -/
theorem exec_eq_advance {i : Instr} {s t : State} (h : exec i s = .next t) :
    ∃ n u, t = advance n u ∧ u.pc = s.pc ∧ u.params = s.params ∧ (transfers i s = false → n = .seq) ∧
      (isArith i (carryOps ++ shiftOps) = false → isSpecial i testOps = false → u.carry = s.carry) ∧
      (isArith i shiftOps = true → u.carry = false) := by
  cases i with
  | m1ExchC | m1ToC | m2ExchC | m2ToC | yToA =>
    exact ⟨_, _, wholeRegister_eq_next.1 h, rfl, rfl, fun _ => rfl, fun _ _ => rfl, nofun⟩
  | stackToA | downRotate | cToStack | clearRegisters =>
    simp only [exec, execStackToA, execDownRotate, execCToStack, execClearRegisters] at h
    exact ⟨_, _, wholeRegister_eq_next.1 h, rfl, rfl, fun _ => rfl, fun _ _ => rfl, nofun⟩
  | nop | woodstock | binary | decimal | decP | incP | setP | cToDataAddress | clearDataRegisters | setS | clearS
  | delayedSelectRom | displayToggle | displayOff | fToA | fExchA =>
    exact ⟨_, _, finish_eq_next.1 h, rfl, rfl, fun _ => rfl, fun _ _ => rfl, nofun⟩
  | ifS0 | ifS1 | ifPEq | ifPNe =>
    exact ⟨_, _, finish_eq_next.1 h, rfl, rfl, fun _ => rfl, fun _ => nofun, nofun⟩
  | resetS =>
    refine ⟨_, _, finish_eq_next.1 h, ?_, ?_, fun _ => rfl, fun _ _ => ?_, nofun⟩
    all_goals split <;> rfl
  | loadN =>
    obtain ⟨-, hnext⟩ := raise_check_eq_next.1 h
    exact ⟨_, _, finish_eq_next.1 hnext, rfl, rfl, fun _ => rfl, fun _ _ => rfl, nofun⟩
  | keysToRom | ret => exact ⟨_, _, finishAt_eq_next.1 h, rfl, rfl, nofun, fun _ _ => rfl, nofun⟩
  | selectRom | jsb =>
    obtain ⟨-, hnext⟩ := raise_check_eq_next.1 h
    exact ⟨_, _, finishAt_eq_next.1 hnext, rfl, rfl, nofun, fun _ _ => rfl, nofun⟩
  | ifNcGoto =>
    simp only [exec, execIfNcGoto] at h
    split at h
    · exact ⟨_, _, finish_eq_next.1 h, rfl, rfl, fun _ => rfl, fun _ _ => rfl, nofun⟩
    · next hprev =>
      obtain ⟨-, hnext⟩ := raise_check_eq_next.1 h
      exact ⟨_, _, finishAt_eq_next.1 hnext, rfl, rfl, by simp [transfers, hprev], fun _ _ => rfl, nofun⟩
  | zeroA | zeroB | zeroC | copyAB | copyCA | copyBC | exchAB | exchAC | exchBC =>
    obtain ⟨w, -, hnext⟩ := arithmetic_eq_next.1 h
    exact ⟨_, _, hnext, rfl, rfl, fun _ => rfl, fun _ _ => rfl, nofun⟩
  | shlA | shrA | shrB | shrC =>
    obtain ⟨w, -, hnext⟩ := arithmetic_eq_next.1 h
    exact ⟨_, _, hnext, rfl, rfl, fun _ => rfl, nofun, fun _ => rfl⟩
  | _ =>
    obtain ⟨w, -, hnext⟩ := arithmetic_eq_next.1 h
    exact ⟨_, _, hnext, rfl, rfl, fun _ => rfl, nofun, nofun⟩

/-- The sequential pc, for every instruction that is no transfer (R272, R275). -/
theorem exec_pc_eq_seq {i : Instr} {s t : State} (h : exec i s = .next t) (hi : transfers i s = false) :
    t.pc = wrapPc s.params (s.pc.toNat + 1) := by
  obtain ⟨n, u, rfl, hpc, hparams, hseq, -⟩ := exec_eq_advance h
  rw [hseq hi, advance_pc, nextPc, hpc, hparams]

theorem exec_carry {i : Instr} {s t : State} (h : exec i s = .next t) : t.carry = false := by
  obtain ⟨n, u, rfl, -⟩ := exec_eq_advance h
  rfl

theorem transfers_eq_false {i : Instr} {s : State} (hjsb : ∀ L, i ≠ .jsb L)
    (hbranch : ∀ L, i = .ifNcGoto L → s.prevCarry = true) (hi : isSpecial i [.ret, .keysToRom, .selectRom] = false) :
    transfers i s = false := by
  cases i with
  | jsb L => exact absurd rfl (hjsb L)
  | ifNcGoto L => simp [transfers, hbranch L rfl]
  | _ => exact hi

/-- Settles O20: the three ways to end are one advance each, and `exec_eq_advance` says what it latches and where it goes. -/
theorem everyTickLatchesAndAdvancesOnce : Obligations.EveryTickLatchesAndAdvancesOnce := by
  unfold Obligations.EveryTickLatchesAndAdvancesOnce
  refine ⟨fun _ => rfl, fun _ _ => rfl, fun fs op s w hw => arithmetic_eq_next.2 ⟨w, hw, rfl⟩, fun s t i h => ?_⟩
  refine ⟨exec_carry h, ?_, ?_, fun hwf hjsb hbranch hi => ?_⟩
  · obtain ⟨n, u, rfl, -, -, -, hkept, -⟩ := exec_eq_advance h
    exact hkept
  · obtain ⟨n, u, rfl, -, -, -, -, hshift⟩ := exec_eq_advance h
    exact hshift
  · rw [exec_pc_eq_seq h (transfers_eq_false hjsb hbranch hi), wrapPc_toNat hwf]

theorem isArith_append (i : Instr) (ops ops' : List ArithOp) :
    isArith i (ops ++ ops') = (isArith i ops || isArith i ops') := by
  unfold isArith
  split <;> simp

/-- Settles O21: a shift leaves 0, and what is neither a shift nor on the list leaves the CARRY it found. -/
theorem onlyArithmeticAndTestsLeaveCarry : Obligations.OnlyArithmeticAndTestsLeaveCarry := by
  unfold Obligations.OnlyArithmeticAndTestsLeaveCarry
  intro s t i hs h harith htest
  obtain ⟨n, u, rfl, -, -, -, hkept, hshift⟩ := exec_eq_advance h
  cases hi : isArith i shiftOps with
  | true => exact hshift hi
  | false => exact (hkept (by rw [isArith_append, harith, hi]; rfl) htest).trans hs

/-! ### The key bit (R221) -/

theorem getLsbD_bitMask (n : BitVec 4) {k : Nat} (hk : k < 16) : (bitMask n).getLsbD k = decide (k = n.toNat) := by
  simp only [bitMask, BitVec.getLsbD_shiftLeft, BitVec.getLsbD_one, hk]
  by_cases h : k = n.toNat
  · simp [h]
  · simp [h]
    omega

/-- Status bit 15 stays set through an instruction, where the sticky set and a held key hold it (R226, R241). -/
theorem exec_keeps_statusBit15 {i : Instr} {s t : State} (hsticky : s.params.zeroSSticky.getLsbD 15 = true)
    (hdown : s.keydown = true) (hbit : s.status.getLsbD 15 = true) (h : exec i s = .next t) :
    t.status.getLsbD 15 = true := by
  cases hi : isSpecial i [.setS, .resetS, .clearS] with
  | false =>
    rw [exec_eq_withWritten h]
    simpa only [withWritten, hi, Bool.false_eq_true, if_false] using hbit
  | true =>
    cases i with
    | setS n =>
      obtain rfl := finish_eq_next.1 h
      simp [hbit]
    | clearS =>
      obtain rfl := finish_eq_next.1 h
      simp [hbit, clearSKeep]
    | resetS n =>
      obtain rfl := finish_eq_next.1 h
      split
      · exact hbit
      · next hheld =>
        have hn : (15 : Nat) ≠ n.toNat := fun e => hheld (by simp [State.heldSticky, ← e, hsticky, hdown])
        rw [advance_status, clearStatusBit_status, BitVec.getLsbD_and, BitVec.getLsbD_not, hbit,
          getLsbD_bitMask n (by decide), decide_eq_false hn]
        rfl
    | _ => cases hi

/-- Settles O25: the writers of the status word keep the bit, and no tick writes `keydown`. -/
theorem heldKeyKeepsStatusBit15 : Obligations.HeldKeyKeepsStatusBit15 := by
  unfold Obligations.HeldKeyKeepsStatusBit15
  intro s t hsticky hdown hbit h
  obtain ⟨-, i, -, hexec⟩ := step_eq_next.1 h
  obtain ⟨-, -, -, -, -, -, -, hkey⟩ := hostItems_eq_iff.1 (hostItems_step h)
  exact ⟨exec_keeps_statusBit15 hsticky hdown hbit hexec, hkey.trans hdown⟩

end Sys2Proof.Machine
end

section
/-!
PROOFS. Faults (spec/60_exceptions.md R340 to R346): which instruction faults and when, said once as an inversion, and
what a tick that faults reports.
-/

namespace Sys2Proof.Machine

/-- The record a fault of this tick carries: its bank, its pc and the word it fetched (R345). -/
abbrev tickRecord (s : State) : FaultRecord := ⟨s.romBank, s.pc, fetchedWord s⟩

/-! ### Where a target lies -/

theorem transferTarget_toNat (s : State) (t : BitVec 8) :
    (transferTarget s t).toNat = (if s.delayedRom then s.delayedBank.toNat else s.pc.toNat / 256) * 256 + t.toNat := by
  rw [transferTarget, pageAddress_toNat, transferPage]
  split
  · rfl
  · rw [pageOf_toNat]

theorem selectTarget_toNat (n : BitVec 4) (pc : Pc) :
    (pageAddress n (offsetOf pc)).toNat = n.toNat * 256 + pc.toNat % 256 := by
  rw [pageAddress_toNat, offsetOf_toNat]

/-! ### The checks of an instruction -/

/-- A check before an instruction's effect: the fault is the check's, or comes after it. -/
theorem raise_check_eq_fault {c : Prop} [Decidable c] {mk : FaultRecord → Fault} {s : State} {r : Result} {f : Fault}
    (h : (if c then raise mk s else r) = .fault f) : c ∧ f = mk (tickRecord s) ∨ ¬ c ∧ r = .fault f := by
  split at h
  next hc => exact .inl ⟨hc, (Host.Outcome.fault.inj h).symm⟩
  next hc => exact .inr ⟨hc, h⟩

theorem window_eq_none_iff {fs : FieldMod} {p : Nat} : window fs p = none ↔ (fs = .p ∨ fs = .wp) ∧ 14 ≤ p := by
  cases fs <;> simp [window]

theorem exec_loadN_fault {s : State} (h : 14 ≤ s.p) (n : BitVec 4) :
    exec (.loadN n) s = .fault (.loadPointer (tickRecord s)) := if_pos h

theorem exec_selectRom_fault {s : State} {n : BitVec 4}
    (h : s.params.romSize ≤ (pageAddress n (offsetOf s.pc)).toNat) :
    exec (.selectRom n) s = .fault (.selectTarget (tickRecord s)) := if_pos h

theorem exec_jsb_fault {s : State} {t : BitVec 8} (h : s.params.romSize ≤ (transferTarget s t).toNat) :
    exec (.jsb t) s = .fault (.transferTarget (tickRecord s)) := if_pos h

theorem exec_ifNcGoto_fault {s : State} {t : BitVec 8} (hprev : s.prevCarry = false)
    (h : s.params.romSize ≤ (transferTarget s t).toNat) :
    exec (.ifNcGoto t) s = .fault (.transferTarget (tickRecord s)) := by
  simp only [exec, execIfNcGoto, hprev, Bool.false_eq_true, if_false]
  exact if_pos h

/-- Every fault of an instruction (R342, R343): no window, no nibble `p`, or a page outside the bank. -/
theorem exec_fault_cases {i : Instr} {s : State} {f : Fault} (h : exec i s = .fault f) :
    (∃ fs, fieldMod? i = some fs ∧ window fs s.p = none ∧ f = .pointerWindow (tickRecord s)) ∨
    (∃ n, i = .loadN n ∧ 14 ≤ s.p ∧ f = .loadPointer (tickRecord s)) ∨
    (∃ n, i = .selectRom n ∧ s.params.romSize ≤ (pageAddress n (offsetOf s.pc)).toNat ∧
      f = .selectTarget (tickRecord s)) ∨
    (∃ t, (i = .jsb t ∨ i = .ifNcGoto t ∧ s.prevCarry = false) ∧ s.params.romSize ≤ (transferTarget s t).toNat ∧
      f = .transferTarget (tickRecord s)) := by
  cases i with
  | loadN n =>
    obtain ⟨hp, hf⟩ | ⟨-, hnext⟩ := raise_check_eq_fault h
    · exact .inr (.inl ⟨n, rfl, hp, hf⟩)
    · exact absurd hnext (finish_ne_fault _ _)
  | selectRom n =>
    obtain ⟨htarget, hf⟩ | ⟨-, hnext⟩ := raise_check_eq_fault h
    · exact .inr (.inr (.inl ⟨n, rfl, htarget, hf⟩))
    · exact absurd hnext (finishAt_ne_fault _ _ _)
  | jsb t =>
    obtain ⟨htarget, hf⟩ | ⟨-, hnext⟩ := raise_check_eq_fault h
    · exact .inr (.inr (.inr ⟨t, .inl rfl, htarget, hf⟩))
    · exact absurd hnext (finishAt_ne_fault _ _ _)
  | ifNcGoto t =>
    simp only [exec, execIfNcGoto] at h
    split at h
    · exact absurd h (finish_ne_fault _ _)
    · next hprev =>
      obtain ⟨htarget, hf⟩ | ⟨-, hnext⟩ := raise_check_eq_fault h
      · exact .inr (.inr (.inr ⟨t, .inr ⟨rfl, Bool.eq_false_of_not_eq_true hprev⟩, htarget, hf⟩))
      · exact absurd hnext (finishAt_ne_fault _ _ _)
  | nop | woodstock | binary | decimal | decP | incP | setP | cToDataAddress | clearDataRegisters | setS | clearS
  | delayedSelectRom | displayToggle | displayOff | fToA | fExchA | ifS0 | ifS1 | ifPEq | ifPNe | resetS
  | keysToRom | ret | m1ExchC | m1ToC | m2ExchC | m2ToC | yToA | stackToA | downRotate | cToStack | clearRegisters =>
    cases h
  | _ =>
    obtain ⟨hw, hf⟩ := arithmetic_eq_fault.1 h
    exact .inl ⟨_, rfl, hw, hf⟩

/-- Settles O12: each clause picks its case of the inversion; the converse is the check of the instruction named. -/
theorem instructionFaultsExactlyAsListed : Obligations.InstructionFaultsExactlyAsListed := by
  unfold Obligations.InstructionFaultsExactlyAsListed
  intro i s
  refine ⟨⟨?window, ?noWindow⟩, ⟨?load, ?noNibble⟩, ⟨?select, ?noPage⟩, ⟨?transfer, ?noTarget⟩, ?record⟩
  case window =>
    rintro ⟨f, h, hkind, hcause⟩
    obtain ⟨fs, hfs, hw, rfl⟩ | ⟨n, -, -, rfl⟩ | ⟨n, -, -, rfl⟩ | ⟨t, -, -, rfl⟩ := exec_fault_cases h
    · obtain ⟨rfl | rfl, hp⟩ := window_eq_none_iff.1 hw
      · exact ⟨.inl hfs, hp⟩
      · exact ⟨.inr hfs, hp⟩
    · cases hcause
    · cases hkind
    · cases hkind
  case noWindow =>
    rintro ⟨hfs | hfs, hp⟩
    · exact ⟨_, exec_fault_of_window_none hfs (window_eq_none_iff.2 ⟨.inl rfl, hp⟩), rfl, rfl⟩
    · exact ⟨_, exec_fault_of_window_none hfs (window_eq_none_iff.2 ⟨.inr rfl, hp⟩), rfl, rfl⟩
  case load =>
    rintro ⟨f, h, hkind, hcause⟩
    obtain ⟨fs, -, -, rfl⟩ | ⟨n, hi, hp, rfl⟩ | ⟨n, -, -, rfl⟩ | ⟨t, -, -, rfl⟩ := exec_fault_cases h
    · cases hcause
    · exact ⟨⟨n, hi⟩, hp⟩
    · cases hkind
    · cases hkind
  case noNibble =>
    rintro ⟨⟨n, rfl⟩, hp⟩
    exact ⟨_, exec_loadN_fault hp n, rfl, rfl⟩
  case select =>
    rintro ⟨f, h, hkind, hcause⟩
    obtain ⟨fs, -, -, rfl⟩ | ⟨n, -, -, rfl⟩ | ⟨n, hi, htarget, rfl⟩ | ⟨t, -, -, rfl⟩ := exec_fault_cases h
    · cases hkind
    · cases hkind
    · exact ⟨n, hi, selectTarget_toNat n s.pc ▸ htarget⟩
    · cases hcause
  case noPage =>
    rintro ⟨n, rfl, htarget⟩
    exact ⟨_, exec_selectRom_fault (selectTarget_toNat n s.pc ▸ htarget), rfl, rfl⟩
  case transfer =>
    rintro ⟨f, h, hkind, hcause⟩
    obtain ⟨fs, -, -, rfl⟩ | ⟨n, -, -, rfl⟩ | ⟨n, -, -, rfl⟩ | ⟨t, hi, htarget, rfl⟩ := exec_fault_cases h
    · cases hkind
    · cases hkind
    · cases hcause
    · exact ⟨t, hi, transferTarget_toNat s t ▸ htarget⟩
  case noTarget =>
    rintro ⟨t, rfl | ⟨rfl, hprev⟩, htarget⟩
    · exact ⟨_, exec_jsb_fault (transferTarget_toNat s t ▸ htarget), rfl, rfl⟩
    · exact ⟨_, exec_ifNcGoto_fault hprev (transferTarget_toNat s t ▸ htarget), rfl, rfl⟩
  case record =>
    intro f h
    obtain ⟨fs, -, -, rfl⟩ | ⟨n, -, -, rfl⟩ | ⟨n, -, -, rfl⟩ | ⟨t, -, -, rfl⟩ := exec_fault_cases h
    · exact ⟨rfl, .inl ⟨rfl, .inl rfl⟩⟩
    · exact ⟨rfl, .inl ⟨rfl, .inr rfl⟩⟩
    · exact ⟨rfl, .inr ⟨rfl, .inl rfl⟩⟩
    · exact ⟨rfl, .inr ⟨rfl, .inr rfl⟩⟩

/-! ### The tick -/

theorem step_fetch_outside {s : State} (h : romWords s.params ≤ fetchAddress s) : step s = raiseFetch s := if_pos h

/-- Inside the ROM the tick is its decoded instruction (R270). -/
theorem step_eq_exec {s : State} {i : Instr} (hin : fetchAddress s < romWords s.params)
    (hdecode : decode s.params (fetchedWord s) = .ok i) : step s = exec i s := by
  simp only [step, ge_iff_le, Nat.not_le.2 hin, if_false, hdecode]

/-- The fault of a word the decoder rejects (R341). -/
def decodeFault (e : DecodeError) : FaultRecord → Fault :=
  if e = .class11Subclass then .class11Subclass else .illegalOpcode

theorem step_rejected {s : State} {e : DecodeError} (hin : fetchAddress s < romWords s.params)
    (hdecode : decode s.params (fetchedWord s) = .error e) : step s = .fault (decodeFault e (tickRecord s)) := by
  simp only [step, ge_iff_le, Nat.not_le.2 hin, if_false, hdecode]
  cases e <;> rfl

/-- Every way a tick ends: the fetch fault, a rejected word, or what its instruction answers. -/
theorem step_cases (s : State) :
    (romWords s.params ≤ fetchAddress s ∧ step s = raiseFetch s) ∨
    (fetchAddress s < romWords s.params ∧
      ((∃ e, step s = .fault (decodeFault e (tickRecord s))) ∨
        ∃ i, decode s.params (fetchedWord s) = .ok i ∧ step s = exec i s)) := by
  rcases Nat.lt_or_ge (fetchAddress s) (romWords s.params) with hin | hout
  · refine .inr ⟨hin, ?_⟩
    cases hdecode : decode s.params (fetchedWord s) with
    | error e => exact .inl ⟨e, step_rejected hin hdecode⟩
    | ok i => exact .inr ⟨i, rfl, step_eq_exec hin hdecode⟩
  · exact .inl ⟨hout, step_fetch_outside hout⟩

@[simp] theorem decodeFault_record (e : DecodeError) (r : FaultRecord) : (decodeFault e r).record = r := by
  cases e <;> rfl

@[simp] theorem decodeFault_kind (e : DecodeError) (r : FaultRecord) : (decodeFault e r).kind = 1 := by
  cases e <;> rfl

theorem decodeFault_cause (e : DecodeError) (r : FaultRecord) :
    (decodeFault e r).cause = if e = .class11Subclass then 2 else 1 := by
  cases e <;> rfl

theorem exec_fault_record {i : Instr} {s : State} {f : Fault} (h : exec i s = .fault f) : f.record = tickRecord s := by
  obtain ⟨fs, -, -, rfl⟩ | ⟨n, -, -, rfl⟩ | ⟨n, -, -, rfl⟩ | ⟨t, -, -, rfl⟩ := exec_fault_cases h <;> rfl

/-- Settles O8. -/
theorem stepRunsTheDecodedInstruction : Obligations.StepRunsTheDecodedInstruction := by
  unfold Obligations.StepRunsTheDecodedInstruction
  exact fun s i hin hdecode => step_eq_exec hin hdecode

/-- Settles O9: the fault of the rejected word carries kind, cause and triple. -/
theorem rejectedWordIsADecoderFault : Obligations.RejectedWordIsADecoderFault := by
  unfold Obligations.RejectedWordIsADecoderFault
  exact fun s e hin hdecode =>
    ⟨_, step_rejected hin hdecode, decodeFault_kind e _, decodeFault_cause e _, decodeFault_record e _⟩

/-- With banks of 4096 words every 12-bit target is in the bank, so an instruction's fault is a DecoderFault (R343). -/
theorem exec_fault_kind_of_full_bank {i : Instr} {s : State} {f : Fault} (hsize : s.params.romSize = 4096)
    (h : exec i s = .fault f) : f.kind = 1 := by
  have hlt (pc : Pc) : ¬ s.params.romSize ≤ pc.toNat := hsize ▸ Nat.not_le.2 pc.isLt
  obtain ⟨fs, -, -, rfl⟩ | ⟨n, -, -, rfl⟩ | ⟨n, -, htarget, -⟩ | ⟨t, -, htarget, -⟩ := exec_fault_cases h
  · rfl
  · rfl
  · exact absurd htarget (hlt _)
  · exact absurd htarget (hlt _)

/-- The pc is in its bank and the bank in the ROM, so the fetch is inside (R63). -/
theorem State.Inv.fetch_inside {s : State} (hinv : s.Inv) : fetchAddress s < romWords s.params := by
  have hbank : (s.romBank + 1) * s.params.romSize ≤ s.params.banks * s.params.romSize :=
    Nat.mul_le_mul_right _ hinv.bankRange
  have hpc := hinv.pcRange
  rw [Nat.add_mul] at hbank
  simp only [fetchAddress, romWords]
  omega

/-- Settles O10: outside, the fetch fault; in the invariant no fetch is outside, and no target of a full bank is. -/
theorem fetchOutsideRomFaultsAndNeverHappens : Obligations.FetchOutsideRomFaultsAndNeverHappens := by
  unfold Obligations.FetchOutsideRomFaultsAndNeverHappens
  refine ⟨fun s hout => ⟨_, step_fetch_outside hout, rfl, rfl, rfl⟩, fun s hinv => hinv.fetch_inside, ?_⟩
  intro s f hinv hsize h
  obtain ⟨hout, -⟩ | ⟨-, ⟨e, hstep⟩ | ⟨i, -, hstep⟩⟩ := step_cases s
  · exact absurd hinv.fetch_inside (Nat.not_lt.2 hout)
  · obtain rfl := Host.Outcome.fault.inj (hstep.symm.trans h)
    exact decodeFault_kind e _
  · exact exec_fault_kind_of_full_bank hsize (hstep.symm.trans h)

/-- Settles O11: a fetch fault names no word; every other fault names the tick's own. -/
theorem faultRecordNamesTheOffendingWord : Obligations.FaultRecordNamesTheOffendingWord := by
  unfold Obligations.FaultRecordNamesTheOffendingWord
  intro s f h
  obtain ⟨hout, hstep⟩ | ⟨hin, hcases⟩ := step_cases s
  · obtain rfl := Host.Outcome.fault.inj (hstep.symm.trans h)
    rw [if_neg (Nat.not_lt.2 hout)]
    exact ⟨rfl, rfl, rfl⟩
  · have hrecord : f.record = tickRecord s := by
      obtain ⟨e, hstep⟩ | ⟨i, -, hstep⟩ := hcases
      · obtain rfl := Host.Outcome.fault.inj (hstep.symm.trans h)
        exact decodeFault_record e _
      · exact exec_fault_record (hstep.symm.trans h)
    rw [if_pos hin, hrecord]
    exact ⟨rfl, rfl, rfl⟩

theorem raise_check_ne_refused {c : Prop} [Decidable c] {mk : FaultRecord → Fault} {s : State} {r : Result}
    {e : Refusal} (h : r ≠ .refused e) : (if c then raise mk s else r) ≠ .refused e := by
  split
  · exact raise_ne_refused mk s e
  · exact h

/-- Every instruction has a meaning: it goes on or faults (R15). -/
theorem exec_ne_refused (i : Instr) (s : State) (e : Refusal) : exec i s ≠ .refused e := by
  cases i with
  | loadN => exact raise_check_ne_refused (finish_ne_refused _ _)
  | selectRom | jsb => exact raise_check_ne_refused (finishAt_ne_refused _ _ _)
  | ifNcGoto =>
    simp only [exec, execIfNcGoto]
    split
    · exact finish_ne_refused _ _
    · exact raise_check_ne_refused (finishAt_ne_refused _ _ _)
  | nop | woodstock | binary | decimal | decP | incP | setP | cToDataAddress | clearDataRegisters | setS | clearS
  | delayedSelectRom | displayToggle | displayOff | fToA | fExchA | ifS0 | ifS1 | ifPEq | ifPNe | resetS =>
    exact finish_ne_refused _ _
  | keysToRom | ret => exact finishAt_ne_refused _ _ _
  | m1ExchC | m1ToC | m2ExchC | m2ToC | yToA | stackToA | downRotate | cToStack | clearRegisters => nofun
  | _ => exact arithmetic_ne_refused _ _ _ _

/-- Settles O13. -/
theorem tickNeverRefuses : Obligations.TickNeverRefuses := by
  unfold Obligations.TickNeverRefuses
  intro s e h
  obtain ⟨-, hstep⟩ | ⟨-, ⟨_, hstep⟩ | ⟨i, -, hstep⟩⟩ := step_cases s
  · cases hstep.symm.trans h
  · cases hstep.symm.trans h
  · exact exec_ne_refused i s e (hstep.symm.trans h)

end Sys2Proof.Machine
end

section
/-!
PROOFS. The invariant (spec/10_state.md sections 1 to 10): reset meets it, and every tick and every host call keeps it.

An instruction keeps each range either because it does not write the item, or because its writer stays in range.  A
decoded instruction is well formed, which is what keeps `p = n` at 14 or below.
-/

namespace Sys2Proof.Machine

/-! ### The ROM image of a list of cells (R60) -/

theorem Memory.ofCells_inside (a : Nat) (cells : List (BitVec 16)) :
    (Memory.ofCells a cells).inside (a + cells.length) := by
  induction cells generalizing a with
  | nil => exact fun c hc => nomatch hc
  | cons cell rest ih =>
    intro c hc
    have hrest : ∀ c ∈ Memory.ofCells (a + 1) rest, c.1 < a + (cell :: rest).length := fun c hc => by
      have := ih (a + 1) c hc
      rw [List.length_cons]
      omega
    simp only [Memory.ofCells, Memory.cons] at hc
    split at hc
    · exact hrest c hc
    · obtain rfl | hc := List.mem_cons.1 hc
      · simp
      · exact hrest c hc

/-- The image reads, at every address it was made for, the cell it was made from. -/
theorem Memory.read_ofCells {cells : List (BitVec 16)} {a b : Nat} (hle : a ≤ b) (hlt : b < a + cells.length) :
    (Memory.ofCells a cells).read b = (cells.getD (b - a) 0).setWidth 10 := by
  induction cells generalizing a with
  | nil => exact absurd hlt (Nat.not_lt.2 hle)
  | cons cell rest ih =>
    rw [List.length_cons] at hlt
    rw [Memory.ofCells, Memory.read_cons (Memory.wfFrom_ofCells (a + 1) rest) (Nat.lt_succ_self a)]
    by_cases hb : b = a
    · simp [hb]
    · obtain ⟨k, hk⟩ : ∃ k, b - a = k + 1 := ⟨b - a - 1, by omega⟩
      rw [if_neg hb, if_neg (by omega), ih (by omega) (by omega), hk, List.getD_cons_succ,
        show b - (a + 1) = k by omega]

/-! ### Reset -/

/-- Every state item at its reset value meets the invariant, for every ROM image in canonical form inside its window. -/
theorem inv_initial {P : Params} {rom : Memory} (hP : P.wf) (hwf : rom.wf = true) (hinside : rom.inside (romWords P)) :
    (State.initial P rom).Inv where
  params := hP
  romWf := hwf
  romInside := hinside
  ramLength := List.length_replicate
  stackLength := List.length_replicate
  stackRange v hv := by
    obtain ⟨-, hmin, -⟩ := hP
    rw [List.eq_of_mem_replicate hv]
    exact Nat.lt_of_lt_of_le (by decide) hmin
  spRange := by
    obtain ⟨-, -, -, -, hstack, -⟩ := hP
    exact hstack
  pcRange := by
    obtain ⟨-, hmin, -⟩ := hP
    exact Nat.lt_of_lt_of_le (Nat.succ_pos 255) hmin
  bankRange := by
    obtain ⟨-, -, -, hbanks, -⟩ := hP
    exact hbanks
  pRange := Nat.zero_le _
  windowOrder := le_refl _
  windowRange := Nat.zero_le _
  carryClear := rfl
  modeRun := rfl
  timerOff := rfl

/-- Settles O15: the default parameters are in range and the blank ROM is canonical. -/
theorem resetMeetsTheInvariant : Obligations.ResetMeetsTheInvariant := by
  unfold Obligations.ResetMeetsTheInvariant
  exact inv_initial (by decide) rfl (fun c hc => nomatch hc)

/-! ### One instruction, item by item -/

section Keeps
variable {i : Instr} {s t : State}

theorem exec_ram_length (h : exec i s = .next t) : t.ram.length = s.ram.length := by
  cases hi : isSpecial i [.clearDataRegisters] with
  | false =>
    obtain ⟨-, -, -, -, -, -, hram⟩ := specialStateWritersAreAsListed s t i h
    rw [hram hi]
  | true =>
    cases i with
    | clearDataRegisters =>
      obtain rfl := finish_eq_next.1 h
      exact List.length_map _
    | _ => cases hi

/-- `jsb` stores its own pc in a slot (R285); nothing else writes the stack. -/
theorem exec_stack (h : exec i s = .next t) : t.stack = s.stack ∨ t.stack = s.stack.set s.sp s.pc := by
  cases i with
  | jsb L =>
    obtain ⟨-, hnext⟩ := raise_check_eq_next.1 h
    obtain rfl := finishAt_eq_next.1 hnext
    exact .inr rfl
  | _ => exact .inl ((stackAndSelectionWritersAreAsListed s t _ h).1 nofun)

theorem exec_sp_lt (hsize : 1 ≤ s.params.stackSize) (hsp : s.sp < s.params.stackSize) (h : exec i s = .next t) :
    t.sp < s.params.stackSize := by
  cases i with
  | jsb L =>
    obtain ⟨-, hnext⟩ := raise_check_eq_next.1 h
    obtain rfl := finishAt_eq_next.1 hnext
    exact Nat.mod_lt _ hsize
  | ret =>
    obtain rfl := finishAt_eq_next.1 h
    exact popSlot_lt hsize
  | _ =>
    obtain ⟨-, hkeep, -⟩ := stackAndSelectionWritersAreAsListed s t _ h
    rw [hkeep nofun nofun]
    exact hsp

/-- The page of a pc in the bank is in the bank with every offset, the bank being whole pages (R6). -/
theorem pageAddress_pageOf_lt {P : Params} (hP : P.wf) {pc : Pc} (hpc : pc.toNat < P.romSize) (t : BitVec 8) :
    (pageAddress (pageOf pc) t).toNat < P.romSize := by
  obtain ⟨hpages, -⟩ := hP
  have ht := t.isLt
  rw [pageAddress_toNat, pageOf_toNat]
  omega

theorem exec_pc_lt (hP : s.params.wf) (hpc : s.pc.toNat < s.params.romSize) (h : exec i s = .next t) :
    t.pc.toNat < s.params.romSize := by
  cases hi : transfers i s with
  | false =>
    rw [exec_pc_eq_seq h hi]
    exact wrapPc_lt hP _
  | true =>
    cases i with
    | jsb L =>
      obtain ⟨htarget, hnext⟩ := raise_check_eq_next.1 h
      obtain rfl := finishAt_eq_next.1 hnext
      exact Nat.not_le.1 htarget
    | ifNcGoto L =>
      simp only [exec, execIfNcGoto] at h
      split at h
      · next hprev => simp [transfers, hprev] at hi
      · obtain ⟨htarget, hnext⟩ := raise_check_eq_next.1 h
        obtain rfl := finishAt_eq_next.1 hnext
        exact Nat.not_le.1 htarget
    | selectRom n =>
      obtain ⟨-, hnext⟩ := raise_check_eq_next.1 h
      obtain rfl := finishAt_eq_next.1 hnext
      exact wrapPc_lt hP _
    | ret =>
      obtain rfl := finishAt_eq_next.1 h
      exact wrapPc_lt hP _
    | keysToRom =>
      obtain rfl := finishAt_eq_next.1 h
      exact pageAddress_pageOf_lt hP hpc _
    | _ => cases hi

theorem exec_p_le (hwell : i.WellFormed = true) (hp : s.p ≤ 14) (h : exec i s = .next t) : t.p ≤ 14 := by
  cases hi : isSpecial i [.decP, .incP, .setP, .loadN] with
  | false =>
    obtain ⟨hkeep, -⟩ := specialStateWritersAreAsListed s t i h
    rw [hkeep hi]
    exact hp
  | true =>
    cases i with
    | decP | incP =>
      obtain rfl := finish_eq_next.1 h
      exact Nat.le_of_lt_succ (Nat.mod_lt _ (Nat.succ_pos nibbles))
    | setP n =>
      obtain rfl := finish_eq_next.1 h
      exact of_decide_eq_true hwell
    | loadN n =>
      obtain ⟨-, hnext⟩ := raise_check_eq_next.1 h
      obtain rfl := finish_eq_next.1 hnext
      exact (Nat.mod_lt _ (by decide : 0 < nibbles)).le
    | _ => cases hi

/-- An arithmetic instruction that goes on leaves its field modifier's window (R34). -/
theorem exec_window_of_fieldMod {fs : FieldMod} (hi : fieldMod? i = some fs) (h : exec i s = .next t) :
    ∃ w, window fs s.p = some w ∧ t.first = w.first ∧ t.last = w.last := by
  cases hw : window fs s.p with
  | none => cases (exec_fault_of_window_none hi hw).symm.trans h
  | some w =>
    obtain ⟨t', hnext, hwindow⟩ := exec_next_of_window_some hi hw
    obtain rfl := Host.Outcome.next.inj (hnext.symm.trans h)
    exact ⟨w, rfl, hwindow⟩

/-- Whoever else writes the window leaves it in order and inside the register (D15). -/
theorem exec_window_of_not_arith (hi : fieldMod? i = none) (horder : s.first ≤ s.last) (hrange : s.last ≤ 13)
    (h : exec i s = .next t) : t.first ≤ t.last ∧ t.last ≤ 13 := by
  have hwhole : wholeWindow.first ≤ wholeWindow.last ∧ wholeWindow.last ≤ 13 := by decide
  cases i with
  | m1ExchC | m1ToC | m2ExchC | m2ToC | yToA =>
    obtain rfl := wholeRegister_eq_next.1 h
    exact hwhole
  | stackToA | downRotate | cToStack | clearRegisters =>
    simp only [exec, execStackToA, execDownRotate, execCToStack, execClearRegisters] at h
    obtain rfl := wholeRegister_eq_next.1 h
    exact hwhole
  | fToA | fExchA =>
    obtain rfl := finish_eq_next.1 h
    exact ⟨le_refl 0, Nat.zero_le 13⟩
  | loadN n =>
    obtain ⟨hp, hnext⟩ := raise_check_eq_next.1 h
    obtain rfl := finish_eq_next.1 hnext
    exact ⟨le_refl s.p, Nat.le_of_lt_succ (Nat.not_le.1 hp)⟩
  | nop | woodstock | binary | decimal | decP | incP | setP | cToDataAddress | clearDataRegisters | setS | clearS
  | delayedSelectRom | displayToggle | displayOff | ifS0 | ifS1 | ifPEq | ifPNe =>
    obtain rfl := finish_eq_next.1 h
    exact ⟨horder, hrange⟩
  | resetS n =>
    obtain rfl := finish_eq_next.1 h
    split <;> exact ⟨horder, hrange⟩
  | keysToRom | ret =>
    obtain rfl := finishAt_eq_next.1 h
    exact ⟨horder, hrange⟩
  | selectRom | jsb =>
    obtain ⟨-, hnext⟩ := raise_check_eq_next.1 h
    obtain rfl := finishAt_eq_next.1 hnext
    exact ⟨horder, hrange⟩
  | ifNcGoto =>
    simp only [exec, execIfNcGoto] at h
    split at h
    · obtain rfl := finish_eq_next.1 h
      exact ⟨horder, hrange⟩
    · obtain ⟨-, hnext⟩ := raise_check_eq_next.1 h
      obtain rfl := finishAt_eq_next.1 hnext
      exact ⟨horder, hrange⟩
  | _ => cases hi

theorem exec_window (horder : s.first ≤ s.last) (hrange : s.last ≤ 13) (h : exec i s = .next t) :
    t.first ≤ t.last ∧ t.last ≤ 13 := by
  cases hi : fieldMod? i with
  | none => exact exec_window_of_not_arith hi horder hrange h
  | some fs =>
    obtain ⟨w, hw, hfirst, hlast⟩ := exec_window_of_fieldMod hi h
    rw [hfirst, hlast]
    exact window_bounds hw

/-- Every well-formed instruction that goes on keeps the invariant. -/
theorem exec_keeps_inv (hwell : i.WellFormed = true) (hinv : s.Inv) (h : exec i s = .next t) : t.Inv := by
  obtain ⟨hrom, hparams, hbank, hmode, htimer, -⟩ := hostItems_eq_iff.1 (hostItems_exec h)
  obtain ⟨-, -, -, -, hstackSize, -⟩ := hinv.params
  obtain ⟨horder, hrange⟩ := exec_window hinv.windowOrder hinv.windowRange h
  exact {
    params := hparams ▸ hinv.params
    romWf := hrom ▸ hinv.romWf
    romInside := by rw [hrom, hparams]; exact hinv.romInside
    ramLength := by rw [exec_ram_length h, hparams]; exact hinv.ramLength
    stackLength := by
      rw [hparams, ← hinv.stackLength]
      obtain hstack | hstack := exec_stack h <;> simp [hstack]
    stackRange := fun v hv => by
      rw [hparams]
      obtain hstack | hstack := exec_stack h
      · exact hinv.stackRange v (hstack ▸ hv)
      · obtain hold | rfl := List.mem_or_eq_of_mem_set (hstack ▸ hv)
        · exact hinv.stackRange v hold
        · exact hinv.pcRange
    spRange := hparams ▸ exec_sp_lt hstackSize hinv.spRange h
    pcRange := hparams ▸ exec_pc_lt hinv.params hinv.pcRange h
    bankRange := by rw [hbank, hparams]; exact hinv.bankRange
    pRange := exec_p_le hwell hinv.pRange h
    windowOrder := horder
    windowRange := hrange
    carryClear := exec_carry h
    modeRun := hmode.trans hinv.modeRun
    timerOff := htimer.trans hinv.timerOff }

end Keeps

/-! ### Ticks and calls -/

/-- A tick that goes on executes a decoded instruction, which is well formed. -/
theorem step_keeps_inv {s t : State} (hinv : s.Inv) (h : step s = .next t) : t.Inv := by
  obtain ⟨-, i, hdecode, hexec⟩ := step_eq_next.1 h
  exact exec_keeps_inv (decode_wellFormed hdecode) hinv hexec

/-- Settles O14. -/
theorem everyTickKeepsTheInvariant : Obligations.EveryTickKeepsTheInvariant := by
  unfold Obligations.EveryTickKeepsTheInvariant
  exact fun s t => step_keeps_inv

/-- No item a key event or a trace switch writes is in the invariant (R296, R297). -/
theorem call_keeps_inv {c : Call} {s t : State} (hinv : s.Inv) (h : call c s = .next t) : t.Inv := by
  cases c with
  | tick => exact step_keeps_inv hinv h
  | reset =>
    cases h
    exact inv_initial hinv.params hinv.romWf hinv.romInside
  | setKey code down =>
    simp only [call, setKey] at h
    split at h
    · cases h
    · cases h
      exact { hinv with }
  | setTrace b =>
    cases h
    exact { hinv with }

theorem afterCall_keeps_inv {s : State} (c : Call) (hinv : s.Inv) : (afterCall s c).Inv := by
  unfold afterCall
  split
  next t h => exact call_keeps_inv hinv h
  next => exact hinv

theorem afterCalls_keeps_inv {s : State} (cs : List Call) (hinv : s.Inv) : (afterCalls s cs).Inv := by
  induction cs generalizing s with
  | nil => exact hinv
  | cons c cs ih => exact ih (afterCall_keeps_inv c hinv)

/-! ### The constructor (R298) -/

/-- What a construction that succeeds answers: the image was long enough, and the processor is at reset with it. -/
theorem newProcessor_eq_next {P : Params} {image : List (BitVec 16)} {banks regs : Nat} {s : State}
    (h : newProcessor P image banks regs = .next s) :
    (withCounts P banks regs).wf ∧ romWords (withCounts P banks regs) ≤ image.length ∧
      s = State.initial (withCounts P banks regs)
        (Memory.ofCells 0 (image.take (romWords (withCounts P banks regs)))) := by
  simp only [newProcessor] at h
  split at h
  · cases h
  · next hwf =>
    split at h
    · cases h
    · next hlong =>
      split at h
      · cases h
      · exact ⟨not_not.1 hwf, Nat.not_lt.1 hlong, (Host.Outcome.next.inj h).symm⟩

theorem inv_of_newProcessor {P : Params} {image : List (BitVec 16)} {banks regs : Nat} {s : State}
    (h : newProcessor P image banks regs = .next s) : s.Inv := by
  obtain ⟨hwf, hlong, rfl⟩ := newProcessor_eq_next h
  refine inv_initial hwf (Memory.wf_ofCells _) ?_
  have hinside := Memory.ofCells_inside 0 (image.take (romWords (withCounts P banks regs)))
  rwa [List.length_take, Nat.min_eq_left hlong, Nat.zero_add] at hinside

/-- Settles O16: the constructed processor is at reset, and every call keeps the invariant. -/
theorem everyRunOfAConstructedProcessorMeetsTheInvariant :
    Obligations.EveryRunOfAConstructedProcessorMeetsTheInvariant := by
  unfold Obligations.EveryRunOfAConstructedProcessorMeetsTheInvariant
  exact fun P image banks regs s cs h => afterCalls_keeps_inv cs (inv_of_newProcessor h)

section Construct
variable {P : Params} {image : List (BitVec 16)} {banks regs : Nat}

theorem newProcessor_of_short (hwf : (withCounts P banks regs).wf)
    (hshort : image.length < romWords (withCounts P banks regs)) :
    newProcessor P image banks regs = .refused .romImageTooShort := by
  simp only [newProcessor]
  rw [if_neg (not_not.2 hwf), if_pos hshort]

theorem newProcessor_of_wide (hwf : (withCounts P banks regs).wf)
    (hlong : romWords (withCounts P banks regs) ≤ image.length) (hwide : ∃ c ∈ image, 1024 ≤ c.toNat) :
    newProcessor P image banks regs = .refused .romCellTooWide := by
  simp only [newProcessor]
  rw [if_neg (not_not.2 hwf), if_neg (Nat.not_lt.2 hlong), if_pos (by simpa using hwide)]

theorem newProcessor_of_image (hwf : (withCounts P banks regs).wf)
    (hlong : romWords (withCounts P banks regs) ≤ image.length) (hcells : ∀ c ∈ image, c.toNat < 1024) :
    newProcessor P image banks regs = .next (State.initial (withCounts P banks regs)
      (Memory.ofCells 0 (image.take (romWords (withCounts P banks regs))))) := by
  simp only [newProcessor]
  rw [if_neg (not_not.2 hwf), if_neg (Nat.not_lt.2 hlong), if_neg (by simpa using hcells)]

end Construct

/-- An image of enough narrow cells reads each of them back from its first `n` addresses. -/
theorem Memory.read_ofCells_take {image : List (BitVec 16)} {n a : Nat} (hlong : n ≤ image.length) (ha : a < n)
    (hcells : ∀ c ∈ image, c.toNat < 1024) :
    ((Memory.ofCells 0 (image.take n)).read a).toNat = (image.getD a 0).toNat := by
  have hcell : (image.getD a 0).toNat < 1024 := by
    rw [List.getD_eq_getElem _ _ (ha.trans_le hlong)]
    exact hcells _ (List.getElem_mem _)
  have hget : (image.take n).getD a 0 = image.getD a 0 := by
    simp only [List.getD_eq_getElem?_getD, List.getElem?_take_of_lt ha]
  have hlen : a < 0 + (image.take n).length := by rwa [List.length_take, Nat.min_eq_left hlong, Nat.zero_add]
  rw [Memory.read_ofCells (Nat.zero_le a) hlen, Nat.sub_zero, hget, BitVec.toNat_setWidth, Nat.mod_eq_of_lt hcell]

/-- Settles O60: the checks in their order, and what the image made from the cells reads. -/
theorem newProcessorLoadsOrRefusesTheImage : Obligations.NewProcessorLoadsOrRefusesTheImage := by
  unfold Obligations.NewProcessorLoadsOrRefusesTheImage
  exact fun P image banks regs => ⟨fun hwf => if_pos hwf, fun hwf =>
    ⟨newProcessor_of_short hwf, newProcessor_of_wide hwf, fun hlong hcells =>
      ⟨_, newProcessor_of_image hwf hlong hcells, fun a ha => Memory.read_ofCells_take hlong ha hcells⟩⟩⟩

end Sys2Proof.Machine
end

section
/-!
PROOFS. The special class and the branches (spec/42 to 45): what each instruction answers, from every state, and how
several of them act together: a test and its branch, a `jsb` and its `return`, reset and the host's calls.
-/

namespace Sys2Proof.Machine

/-! ### Status and pointer tests (R223 to R228) -/

/-- Settles O42: each test is one verdict. -/
theorem statusAndPointerTestsComplete : Obligations.StatusAndPointerTestsComplete := by
  unfold Obligations.StatusAndPointerTestsComplete
  intro s n m
  refine ⟨rfl, ?_, ⟨!decide (s.p = m), rfl, by simp⟩, ⟨!decide (s.p ≠ m), rfl, by simp⟩⟩
  have hverdict : exec (.ifS0 n) s = .next (afterSeq s (!!s.status.getLsbD n.toNat)) := rfl
  rwa [Bool.not_not] at hverdict

/-! ### Group 0 (R200 to R209) -/

/-- Settles O44: each is one update, or none, and the advance. -/
theorem noOperationBaseAndDisplayInstructionsComplete : Obligations.NoOperationBaseAndDisplayInstructionsComplete := by
  unfold Obligations.NoOperationBaseAndDisplayInstructionsComplete
  refine fun s => ⟨fun i hi => ?_, rfl, rfl, rfl, rfl⟩
  obtain rfl | hi := List.mem_cons.1 hi
  · rfl
  · obtain rfl := List.mem_singleton.1 hi
    rfl

/-- Settles O45: the steps modulo 15 are the wraps on 0 to 14. -/
theorem pointerInstructionsComplete : Obligations.PointerInstructionsComplete := by
  unfold Obligations.PointerInstructionsComplete
  refine fun s n => ⟨⟨(s.p + nibbles) % (nibbles + 1), rfl, fun hp => ?_⟩,
    ⟨(s.p + 1) % (nibbles + 1), rfl, fun hp => ?_⟩, rfl⟩
  all_goals
    simp only [nibbles]
    split <;> omega

/-- Settles O46: the page is the pc's own and the offset is `keycode`; a selection is recorded over the last one. -/
theorem delayedSelectAndKeyDispatchComplete : Obligations.DelayedSelectAndKeyDispatchComplete := by
  unfold Obligations.DelayedSelectAndKeyDispatchComplete
  refine fun s => ⟨⟨pageAddress (pageOf s.pc) s.keycode, rfl, ?_⟩, fun n => ⟨rfl, fun m t u hn hm => ?_⟩⟩
  · rw [pageAddress_toNat, pageOf_toNat]
  · obtain rfl := finish_eq_next.1 hn
    obtain rfl := finish_eq_next.1 hm
    exact ⟨rfl, rfl, rfl⟩

/-- The slot a pop reads, `sp` stepped down in the ring (R286). -/
theorem popSlot_eq {s : State} (h : s.sp < s.params.stackSize) :
    popSlot s = if s.sp = 0 then s.params.stackSize - 1 else s.sp - 1 := by
  unfold popSlot
  split
  · next hzero => rw [hzero, Nat.zero_add, Nat.mod_eq_of_lt (by omega)]
  · next hpos =>
    rw [show s.sp + (s.params.stackSize - 1) = s.sp - 1 + s.params.stackSize by omega, Nat.add_mod_right,
      Nat.mod_eq_of_lt (by omega)]

/-- `return` steps `sp` down and goes to one past what the slot holds (R205). -/
theorem exec_ret (s : State) :
    exec .ret s = .next { afterJump s (wrapPc s.params ((popValue s).toNat + 1)) with sp := popSlot s } := rfl

/-- Settles O47: the slot in closed form. -/
theorem returnCompletes : Obligations.ReturnCompletes := by
  unfold Obligations.ReturnCompletes
  intro s hwf hsp
  rw [← popSlot_eq hsp]
  exact ⟨_, exec_ret s, wrapPc_toNat hwf _⟩

/-- Settles O48: the check on the page, passed or not. -/
theorem selectRomCompletesOrFaults : Obligations.SelectRomCompletesOrFaults := by
  unfold Obligations.SelectRomCompletesOrFaults
  intro s n hwf
  rw [← selectTarget_toNat]
  refine ⟨fun hin => ⟨wrapPc s.params ((pageAddress n (offsetOf s.pc)).toNat + 1), ?_, wrapPc_toNat hwf _⟩,
    fun hout => ⟨_, exec_selectRom_fault hout, rfl, rfl, rfl⟩⟩
  exact if_neg (Nat.not_le.2 hin)

theorem nibble_append_toNat (x y : Nibble) : (x ++ y : BitVec 8).toNat = x.toNat * 16 + y.toNat := by
  have hy := y.isLt
  rw [BitVec.toNat_append, ← Nat.shiftLeft_add_eq_or_of_lt hy, Nat.shiftLeft_eq]

/-- Settles O49: the latch is two nibbles side by side; every data register is written with the zero register. -/
theorem dataMemoryInstructionsComplete : Obligations.DataMemoryInstructionsComplete := by
  unfold Obligations.DataMemoryInstructionsComplete
  refine fun s => ⟨⟨_, rfl, nibble_append_toNat _ _⟩, ⟨_, rfl, List.length_map _, fun r hr k _ => ?_⟩⟩
  obtain ⟨_, -, rfl⟩ := List.mem_map.1 hr
  exact Reg.nib_zero k

/-! ### Status bits (R222, R226, R241) -/

theorem getLsbD_setStatusBit (s : State) (n : BitVec 4) {k : Nat} (hk : k < 16) :
    (s.setStatusBit n).status.getLsbD k = (decide (k = n.toNat) || s.status.getLsbD k) := by
  rw [setStatusBit_status, BitVec.getLsbD_or, getLsbD_bitMask n hk, Bool.or_comm]

theorem getLsbD_clearStatusBit (s : State) (n : BitVec 4) {k : Nat} (hk : k < 16) :
    (s.clearStatusBit n).status.getLsbD k = (s.status.getLsbD k && !decide (k = n.toNat)) := by
  rw [clearStatusBit_status, BitVec.getLsbD_and, BitVec.getLsbD_not, getLsbD_bitMask n hk, decide_eq_true hk,
    Bool.true_and]

/-- Only the status word can differ between the two branches of `0 -> s(n)`. -/
theorem exec_resetS (n : BitVec 4) (s : State) :
    exec (.resetS n) s = .next { afterSeq s s.carry with
      status := if s.heldSticky n then s.status else (s.clearStatusBit n).status } := by
  simp only [exec, execResetS]
  split <;> rfl

theorem getLsbD_resetS (s : State) (n : BitVec 4) {k : Nat} (hk : k < 16) :
    (if s.heldSticky n then s.status else (s.clearStatusBit n).status).getLsbD k =
      (s.status.getLsbD k && !(decide (k = n.toNat) && !(s.params.zeroSSticky.getLsbD k && s.keydown))) := by
  by_cases hn : k = n.toNat
  · have hsticky : (s.params.zeroSSticky.getLsbD k && s.keydown) = s.heldSticky n := by rw [hn, State.heldSticky]
    rw [hsticky, decide_eq_true hn]
    cases s.heldSticky n with
    | true => exact (Bool.and_true _).symm
    | false => exact (getLsbD_clearStatusBit s n hk).trans (by rw [decide_eq_true hn]; rfl)
  · rw [decide_eq_false hn, Bool.false_and, Bool.not_false, Bool.and_true]
    split
    · rfl
    · rw [getLsbD_clearStatusBit s n hk, decide_eq_false hn, Bool.not_false, Bool.and_true]

theorem getLsbD_clearSKeep {k : Nat} (hk : k < 16) : clearSKeep.getLsbD k = decide (k ∈ [1, 2, 5, 15]) := by
  interval_cases k <;> rfl

/-- Settles O50: the masks, bit by bit. -/
theorem statusBitInstructionsComplete : Obligations.StatusBitInstructionsComplete := by
  unfold Obligations.StatusBitInstructionsComplete
  intro s n
  refine ⟨⟨_, rfl, fun k => getLsbD_setStatusBit s n⟩, ⟨_, exec_resetS n s, fun k hk => ?_⟩, ⟨_, rfl, fun k hk => ?_⟩⟩
  · exact getLsbD_resetS s n hk
  · rw [BitVec.getLsbD_and, getLsbD_clearSKeep hk]

/-! ### Group 2 (R240 to R260) -/

/-- Over window W a copy replaces the whole register (R121). -/
theorem copy_whole (dst : RegName) (src : Option RegName) (s : State) :
    copy wholeWindow dst src s = s.setReg dst (s.operand src) := by
  rw [copy, overField_whole]

/-- Over window W an exchange swaps the whole registers. -/
theorem exch_whole (x y : RegName) (s : State) :
    exch wholeWindow x y s = (s.setReg x (s.getReg y)).setReg y (s.getReg x) := by
  rw [exch, overField_whole, overField_whole]

/-- Settles O51: eight copies of the absent operand over window W. -/
theorem clearRegistersCompletes : Obligations.ClearRegistersCompletes := by
  unfold Obligations.ClearRegistersCompletes
  refine fun s => ⟨Reg.zero, fun k _ => Reg.nib_zero k, ?_⟩
  simp only [exec, execClearRegisters, wholeRegister, copy_whole]
  rfl

/-- Settles O52: the copies and exchanges are over window W; the stack moves are simultaneous updates. -/
theorem wholeRegisterMovesComplete : Obligations.WholeRegisterMovesComplete := by
  unfold Obligations.WholeRegisterMovesComplete
  refine fun s => ⟨?_, ?_, ?_, ?_, rfl, rfl, ?_, rfl⟩
  all_goals
    simp only [exec, execM1ExchC, execM1ToC, execM2ExchC, execM2ToC, execYToA, wholeRegister, exch_whole, copy_whole]
    rfl

/-- Settles O53: both write the field `(0, 0)` of A. -/
theorem fRegisterMovesComplete : Obligations.FRegisterMovesComplete := by
  unfold Obligations.FRegisterMovesComplete
  refine fun s => ⟨overField ⟨0, 0⟩ s.regA fun _ => s.f, rfl, rfl, ?_, fun k hk hlt => ?_⟩
  · exact nib_overField_inside (Nat.zero_le 13) _ _ (le_refl 0) (le_refl 0)
  · exact sameOutside_overField _ _ _ k hlt fun hin => by
      have : k ≤ 0 := hin.2
      omega

/-- Settles O54: the field `(p, p)` of C, and the step modulo 14; or the check on `p`. -/
theorem loadConstantCompletesOrFaults : Obligations.LoadConstantCompletesOrFaults := by
  unfold Obligations.LoadConstantCompletesOrFaults
  refine fun s n => ⟨fun hp => ⟨overField ⟨s.p, s.p⟩ s.regC fun _ => n, ?_, ?_, fun k hk hne => ?_⟩,
    fun hp => ⟨_, exec_loadN_fault hp n, rfl, rfl, rfl⟩⟩
  · have hstep : (s.p + (nibbles - 1)) % nibbles = if s.p = 0 then 13 else s.p - 1 := by
      simp only [nibbles]
      split <;> omega
    rw [← hstep]
    exact if_neg (by simp only [nibbles]; omega)
  · exact nib_overField_inside hp _ _ (le_refl s.p) (le_refl s.p)
  · exact sameOutside_overField _ _ _ k hk fun hin => hne (Nat.le_antisymm hin.2 hin.1)

/-! ### Branches (R276, R278) -/

theorem exec_jsb {s : State} {t : BitVec 8} (h : (transferTarget s t).toNat < s.params.romSize) :
    exec (.jsb t) s = .next { afterJump s (transferTarget s t) with
      stack := s.stack.set s.sp s.pc, sp := (s.sp + 1) % s.params.stackSize, delayedRom := false } :=
  if_neg (Nat.not_le.2 h)

theorem exec_ifNcGoto_not_taken {s : State} {t : BitVec 8} (hprev : s.prevCarry = true) :
    exec (.ifNcGoto t) s = .next (afterSeq s s.carry) := if_pos hprev

theorem exec_ifNcGoto_taken {s : State} {t : BitVec 8} (hprev : s.prevCarry = false)
    (h : (transferTarget s t).toNat < s.params.romSize) :
    exec (.ifNcGoto t) s = .next { afterJump s (transferTarget s t) with delayedRom := false } := by
  simp only [exec, execIfNcGoto, hprev, Bool.false_eq_true, if_false]
  exact if_neg (Nat.not_le.2 h)

/-- Settles O55. -/
theorem jsbCompletesOrFaults : Obligations.JsbCompletesOrFaults := by
  unfold Obligations.JsbCompletesOrFaults
  intro s t target
  have htarget : (transferTarget s t).toNat = target := transferTarget_toNat s t
  rw [← htarget]
  exact ⟨fun hin => ⟨_, rfl, exec_jsb hin⟩, fun hout => ⟨_, exec_jsb_fault hout, rfl, rfl, rfl⟩⟩

/-- Settles O56. -/
theorem ifNcGotoCompletesOrFaults : Obligations.IfNcGotoCompletesOrFaults := by
  unfold Obligations.IfNcGotoCompletesOrFaults
  intro s t target
  have htarget : (transferTarget s t).toNat = target := transferTarget_toNat s t
  rw [← htarget]
  exact ⟨exec_ifNcGoto_not_taken, fun hprev hin => ⟨_, rfl, exec_ifNcGoto_taken hprev hin⟩,
    fun hprev hout => ⟨_, exec_ifNcGoto_fault hprev hout, rfl, rfl, rfl⟩⟩

/-! ### A test and the branch after it (R179, R230) -/

/-- A field, status or pointer test. -/
abbrev isTest (i : Instr) : Bool :=
  isArith i [.ifBZero, .ifCZero, .ifAGeC, .ifAGeB, .ifANonzero, .ifCNonzero] || isSpecial i testOps

/-- A test goes to the next word and leaves the pending selection alone. -/
theorem exec_test {i : Instr} {s t : State} (hi : isTest i = true) (h : exec i s = .next t) :
    t.pc = wrapPc s.params (s.pc.toNat + 1) ∧ t.delayedRom = s.delayedRom ∧ t.delayedBank = s.delayedBank := by
  have hkind : transfers i s = false ∧ isSpecial i [.delayedSelectRom] = false ∧ isBranch i = false := by
    cases i with
    | ifBZero | ifCZero | ifAGeC | ifAGeB | ifANonzero | ifCNonzero | ifS1 | ifS0 | ifPEq | ifPNe => exact ⟨rfl, rfl, rfl⟩
    | _ => cases hi
  obtain ⟨hseq, hselect, hbranch⟩ := hkind
  obtain ⟨-, -, hbank, -⟩ := stackAndSelectionWritersAreAsListed s t i h
  exact ⟨exec_pc_eq_seq h hseq, delayedRom_eq_of_exec h hselect hbranch, (hbank hselect).1⟩

/-- Settles O43: after the test the invariant still holds, so the second tick fetches and executes the branch, whose two
ways are those of `if nc goto`. -/
theorem branchAfterATestFollowsItsVerdict : Obligations.BranchAfterATestFollowsItsVerdict := by
  unfold Obligations.BranchAfterATestFollowsItsVerdict
  intro s t i L hinv hi hdecode hstep hdecode' target
  obtain ⟨-, hparams, -⟩ := hostItems_eq_iff.1 (hostItems_step hstep)
  have hstep' : step t = exec (.ifNcGoto L) t := step_eq_exec (step_keeps_inv hinv hstep).fetch_inside hdecode'
  rw [step_eq_exec hinv.fetch_inside hdecode] at hstep
  obtain ⟨hpc, hrom, hbank⟩ := exec_test hi hstep
  have htarget : transferTarget t L = target := by rw [transferTarget, transferPage, hrom, hbank]
  rw [hstep', ← htarget, ← hparams]
  refine ⟨fun hprev hin => ?taken, fun hprev => ?notTaken⟩
  case taken => exact ⟨_, exec_ifNcGoto_taken hprev hin, rfl, rfl, hbank⟩
  case notTaken =>
    refine ⟨_, exec_ifNcGoto_not_taken hprev, ?_, hrom, hbank⟩
    have hwf : t.params.wf := hparams ▸ hinv.params
    have hsecond : ((afterSeq t t.carry).pc).toNat = (t.pc.toNat + 1) % t.params.romSize := wrapPc_toNat hwf _
    rw [hsecond, hpc, wrapPc_toNat hinv.params, hparams, Nat.mod_add_mod]

/-! ### A subroutine and its return (R289) -/

/-- Settles O57: the pop reads the slot the push wrote, which holds the pc of the `jsb`. -/
theorem returnGoesPastItsJsb : Obligations.ReturnGoesPastItsJsb := by
  unfold Obligations.ReturnGoesPastItsJsb
  intro s t u v L hinv hjsb hstack hsp hparams hret
  obtain ⟨-, hnext⟩ := raise_check_eq_next.1 hjsb
  obtain rfl := finishAt_eq_next.1 hnext
  obtain rfl := Host.Outcome.next.inj ((exec_ret u).symm.trans hret)
  have hslot : popSlot u = s.sp := by
    rw [← popSlot_push s.pc hinv.spRange, popSlot, popSlot, hsp, hparams]
    rfl
  have hvalue : popValue u = s.pc := by
    have hlen : s.sp < s.stack.length := hinv.stackLength ▸ hinv.spRange
    simp [popValue, hslot, hstack, hlen]
  have hwf : u.params.wf := hparams ▸ hinv.params
  refine ⟨?_, hslot⟩
  have hpc : (wrapPc u.params ((popValue u).toNat + 1)).toNat = _ := wrapPc_toNat hwf _
  refine hpc.trans ?_
  rw [hvalue, hparams]
  rfl

/-! ### Reset and the host (R47, R295 to R297) -/

/-- The status word at reset has bits 3 and 5 set (R47). -/
theorem getLsbD_statusAtReset : ∀ k, k < 16 → (0x0028#16).getLsbD k = decide (k = 3 ∨ k = 5) := by decide

/-- Settles O58: every item is a literal of `State.initial`. -/
theorem resetSetsEveryItem : Obligations.ResetSetsEveryItem := by
  unfold Obligations.ResetSetsEveryItem
  refine fun s => ⟨fun X k _ => ?registers, ⟨List.length_replicate, fun r hr k _ => ?ram⟩,
    ⟨List.length_replicate, fun v hv => List.eq_of_mem_replicate hv⟩, rfl, rfl, rfl, rfl, rfl, rfl, rfl, rfl, rfl,
    fun k hk => ?status, rfl, rfl, rfl, rfl, rfl, rfl, rfl, rfl, rfl, rfl, rfl, rfl, rfl⟩
  case registers => cases X <;> exact Reg.nib_zero k
  case ram =>
    rw [List.eq_of_mem_replicate hr]
    exact Reg.nib_zero k
  case status => exact getLsbD_statusAtReset k hk

/-- The status word after a key call: a press sets bit 15, a release none (R296). -/
theorem getLsbD_keyStatus (v : BitVec 16) (down : Bool) {k : Nat} (hk : k < 16) :
    (if down then v ||| bitMask 15 else v).getLsbD k = (v.getLsbD k || (down && decide (k = 15))) := by
  cases down with
  | false => simp
  | true =>
    rw [if_pos rfl, BitVec.getLsbD_or, getLsbD_bitMask 15 hk]
    rfl

/-- Settles O59. -/
theorem keyAndTraceCallsLatchTheirInputs : Obligations.KeyAndTraceCallsLatchTheirInputs := by
  unfold Obligations.KeyAndTraceCallsLatchTheirInputs
  refine fun s code down b => ⟨fun hwide => if_pos hwide, fun hcode => ?_, rfl⟩
  exact ⟨BitVec.ofNat 8 code, if down then s.status ||| bitMask 15 else s.status,
    by rw [BitVec.toNat_ofNat]; omega, if_neg (Nat.not_lt.2 hcode), fun k => getLsbD_keyStatus s.status down⟩

end Sys2Proof.Machine
end

section
/-!
PROOFS. The arithmetic class (spec/41_arithmetic.md R150 to R183): every instruction is one primitive over its window, so
each completes with what the primitive does to the field, and its frame is the field write's.
-/

namespace Sys2Proof.Machine

/-! ### Registers after an update of the flags -/

@[simp] theorem getReg_carry (s : State) (c : Bool) (X : RegName) : State.getReg { s with carry := c } X = s.getReg X := by
  cases X <;> rfl

@[simp] theorem getReg_carries (s : State) (c c' : Bool) (X : RegName) :
    State.getReg { s with carry := c, prevCarry := c' } X = s.getReg X := by
  cases X <;> rfl

@[simp] theorem getReg_verdict (s : State) (b : Bool) (X : RegName) : (s.verdict b).getReg X = s.getReg X :=
  getReg_carry s _ X

@[simp] theorem getReg_add (w : Window) (dst x y : Option RegName) (cin : Bool) (s : State) (X : RegName) :
    (add w dst x y cin s).getReg X =
      (writeField w dst (addDigit s.params s.base w (s.operand x) (s.operand y) cin) s).getReg X := getReg_carry _ _ X

@[simp] theorem getReg_sub (w : Window) (dst x y : Option RegName) (cin : Bool) (s : State) (X : RegName) :
    (sub w dst x y cin s).getReg X =
      (writeField w dst (subDigit s.params s.base w (s.operand x) (s.operand y) cin) s).getReg X := getReg_carry _ _ X

@[simp] theorem getReg_shr (w : Window) (x : RegName) (s : State) (X : RegName) :
    (shr w x s).getReg X = (s.setReg x (shiftedRight w (s.getReg x))).getReg X := getReg_carry _ _ X

@[simp] theorem getReg_shl (w : Window) (x : RegName) (s : State) (X : RegName) :
    (shl w x s).getReg X = (s.setReg x (shiftedLeft w (s.getReg x))).getReg X := getReg_carries _ _ _ X

/-- What an exchange leaves in each register (R123). -/
theorem getReg_exch (w : Window) (x y X : RegName) (s : State) :
    (exch w x y s).getReg X = if X = y then overField w (s.getReg y) (s.getReg x).nib
      else if X = x then overField w (s.getReg x) (s.getReg y).nib else s.getReg X := by
  rw [exch, getReg_setReg, getReg_setReg]

/-! ### The frame of a field (R120) -/

theorem sameOutside_refl (w : Window) (r : Reg) : SameOutside w r r := fun _ _ _ => rfl

theorem sameOutside_setReg (w : Window) (X dst : RegName) (f : Nat → Nibble) (s : State) :
    SameOutside w (s.getReg X) ((s.setReg dst (overField w (s.getReg dst) f)).getReg X) := by
  rw [getReg_setReg]
  split
  next h => exact h ▸ sameOutside_overField w _ f
  next => exact sameOutside_refl w _

theorem sameOutside_writeField (w : Window) (X : RegName) (dst : Option RegName) (f : Nat → Nibble) (s : State) :
    SameOutside w (s.getReg X) ((writeField w dst f s).getReg X) := by
  cases dst with
  | none => exact sameOutside_refl w _
  | some dst => exact sameOutside_setReg w X dst f s

/-- No primitive touches a nibble outside its window, in any register (R120). -/
theorem FieldPrimitive.sameOutside {op : Window → State → State} (h : FieldPrimitive op) (w : Window) (s : State)
    (X : RegName) : SameOutside w (s.getReg X) ((op w s).getReg X) := by
  cases h with
  | copy dst src => exact sameOutside_setReg w X dst _ s
  | exch x y =>
    rw [getReg_exch]
    split
    next hy => exact hy ▸ sameOutside_overField w _ _
    next =>
      split
      next hx => exact hx ▸ sameOutside_overField w _ _
      next => exact sameOutside_refl w _
  | add => rw [getReg_add]; exact sameOutside_writeField w X _ _ s
  | sub => rw [getReg_sub]; exact sameOutside_writeField w X _ _ s
  | testEq x y => exact (getReg_verdict s _ X).symm ▸ sameOutside_refl w _
  | testNe x y => exact (getReg_verdict s _ X).symm ▸ sameOutside_refl w _
  | shr x => rw [getReg_shr]; exact sameOutside_setReg w X x _ s
  | shl x => rw [getReg_shl]; exact sameOutside_setReg w X x _ s

theorem isSpecial_of_fieldMod {i : Instr} {fs : FieldMod} (h : fieldMod? i = some fs) (ops : List SpecialOp) :
    isSpecial i ops = false := by
  unfold fieldMod? at h
  unfold isSpecial
  split <;> simp_all

theorem isBranch_of_fieldMod {i : Instr} {fs : FieldMod} (h : fieldMod? i = some fs) : isBranch i = false := by
  unfold fieldMod? at h
  unfold isBranch
  split <;> simp_all

theorem isJsb_of_fieldMod {i : Instr} {fs : FieldMod} (h : fieldMod? i = some fs) : isJsb i = false := by
  cases i with
  | jsb => cases h
  | _ => rfl

/-- The frame of an arithmetic instruction: of the items outside the register file it writes window, pc and carries. -/
theorem exec_arith_frame {i : Instr} {fs : FieldMod} {s t : State} (hi : fieldMod? i = some fs)
    (h : exec i s = .next t) :
    t = { s with regA := t.regA, regB := t.regB, regC := t.regC, first := t.first, last := t.last, pc := t.pc,
                 prevCarry := t.prevCarry, carry := t.carry } := by
  have hframe := exec_eq_withWritten h
  have hA := congrArg State.regA hframe
  have hB := congrArg State.regB hframe
  have hC := congrArg State.regC hframe
  simp only [withWritten, isSpecial_of_fieldMod hi, isBranch_of_fieldMod hi, isJsb_of_fieldMod hi, Bool.or_self,
    Bool.or_false, Bool.false_eq_true, if_false] at hframe hA hB hC
  rwa [← hA, ← hB, ← hC] at hframe

/-- Settles O29: the primitive's field frame, and the instruction's. -/
theorem arithmeticActsOnItsFieldOnly : Obligations.ArithmeticActsOnItsFieldOnly := by
  unfold Obligations.ArithmeticActsOnItsFieldOnly
  intro i fs w s t hi hw h
  refine ⟨fun X => ?_, ?_⟩
  · obtain ⟨op, hop, hexec⟩ := exec_eq_arithmetic hi
    obtain ⟨w', hw', rfl⟩ := arithmetic_eq_next.1 ((hexec s).symm.trans h)
    obtain rfl := Option.some.inj (hw.symm.trans hw')
    rw [getReg_advance, ← getReg_setWindow s w X]
    exact hop.sameOutside w _ X
  · obtain ⟨w', hw', hfirst, hlast⟩ := exec_window_of_fieldMod hi h
    obtain rfl := Option.some.inj (hw.symm.trans hw')
    rw [← hfirst, ← hlast]
    exact exec_arith_frame hi h

/-! ### What each primitive leaves after the advance -/

section Complete
variable {fs : FieldMod} {s : State} {w : Window} {i : Instr}

/-- An arithmetic instruction with a window ends with the advance after its primitive (R150). -/
theorem arithmetic_of_window {op : Window → State → State} (hw : window fs s.p = some w) :
    arithmetic fs op s = .next (advance .seq (op w (s.setWindow w))) := arithmetic_eq_next.2 ⟨w, hw, rfl⟩

theorem advance_setReg (s : State) (w : Window) (X : RegName) (r : Reg) :
    advance .seq ((s.setWindow w).setReg X r) = (afterField s w s.carry).setReg X r := by
  cases X <;> rfl

theorem advance_setReg_carry (s : State) (w : Window) (X : RegName) (r : Reg) (c : Bool) :
    advance .seq { (s.setWindow w).setReg X r with carry := c } = (afterField s w c).setReg X r := by
  cases X <;> rfl

theorem advance_setReg_carries (s : State) (w : Window) (X : RegName) (r : Reg) (c c' : Bool) :
    advance .seq { (s.setWindow w).setReg X r with carry := c, prevCarry := c' } = (afterField s w c).setReg X r := by
  cases X <;> rfl

theorem advance_setReg_setReg (s : State) (w : Window) (x y : RegName) (r q : Reg) :
    advance .seq (((s.setWindow w).setReg x r).setReg y q) = ((afterField s w s.carry).setReg x r).setReg y q := by
  cases x <;> cases y <;> rfl

theorem advance_carry_setWindow (s : State) (w : Window) (c : Bool) :
    advance .seq { s.setWindow w with carry := c } = afterField s w c := rfl

/-! ### Copies and exchanges -/

theorem exec_copy {dst : RegName} {src : Option RegName} (hw : window fs s.p = some w)
    (hexec : exec i s = arithmetic fs (fun w => copy w dst src) s) :
    exec i s = .next ((afterField s w s.carry).setReg dst (overField w (s.getReg dst) (s.operand src).nib)) := by
  rw [hexec, arithmetic_of_window hw, copy, advance_setReg, getReg_setWindow, operand_setWindow]

/-- A copy of the absent operand zeroes the field (R122, R124). -/
theorem zeroing_completes {dst : RegName} (hw : window fs s.p = some w)
    (hexec : exec i s = arithmetic fs (fun w => copy w dst none) s) :
    ∃ r : Reg, exec i s = .next ((afterField s w s.carry).setReg dst r) ∧ SameOutside w (s.getReg dst) r ∧
      ∀ k, w.first ≤ k → k ≤ w.last → r.nib k = 0 := by
  refine ⟨_, exec_copy hw hexec, sameOutside_overField w _ _, fun k hfirst hk => ?_⟩
  rw [nib_overField_inside (window_bounds hw).2 _ _ hfirst hk]
  exact Reg.nib_zero k

theorem copy_completes {dst src : RegName} (hw : window fs s.p = some w)
    (hexec : exec i s = arithmetic fs (fun w => copy w dst (some src)) s) :
    ∃ r : Reg, exec i s = .next ((afterField s w s.carry).setReg dst r) ∧ SameOutside w (s.getReg dst) r ∧
      ∀ k, w.first ≤ k → k ≤ w.last → r.nib k = (s.getReg src).nib k :=
  ⟨_, exec_copy hw hexec, sameOutside_overField w _ _,
    fun _ => nib_overField_inside (window_bounds hw).2 _ (s.getReg src).nib⟩

/-- Swapping a field twice gives it back. -/
theorem overField_swap_twice (w : Window) (a b : Reg) :
    overField w (overField w a b.nib) (overField w b a.nib).nib = a := by
  refine Reg.ext_nib fun k hk => ?_
  rw [nib_overField _ _ _ hk, nib_overField _ _ _ hk, nib_overField _ _ _ hk]
  split <;> rfl

theorem exch_exch (w : Window) {x y : RegName} (hxy : x ≠ y) (s t : State)
    (ht : ∀ X, t.getReg X = (exch w x y s).getReg X) (X : RegName) : (exch w x y t).getReg X = s.getReg X := by
  simp only [getReg_exch, ht, hxy, if_true, if_false]
  split
  next h => rw [h, overField_swap_twice]
  next =>
    split
    next h => rw [h, overField_swap_twice]
    next => rfl

theorem exchange_completes {x y : RegName} (hxy : x ≠ y) (hw : window fs s.p = some w)
    (hexec : ∀ s, exec i s = arithmetic fs (fun w => exch w x y) s) :
    ∃ a b : Reg, exec i s = .next (((afterField s w s.carry).setReg x a).setReg y b) ∧
      SameOutside w (s.getReg x) a ∧ SameOutside w (s.getReg y) b ∧
      (∀ k, w.first ≤ k → k ≤ w.last → a.nib k = (s.getReg y).nib k ∧ b.nib k = (s.getReg x).nib k) ∧
      ∀ t u, exec i s = .next t → exec i t = .next u → ∀ X, u.getReg X = s.getReg X := by
  have hlast := (window_bounds hw).2
  refine ⟨_, _, ?_, sameOutside_overField w _ (s.getReg y).nib, sameOutside_overField w _ (s.getReg x).nib,
    fun k hfirst hk => ⟨nib_overField_inside hlast _ _ hfirst hk, nib_overField_inside hlast _ _ hfirst hk⟩,
    fun t u ht hu X => ?_⟩
  · rw [hexec, arithmetic_of_window hw, exch, advance_setReg_setReg, getReg_setWindow, getReg_setWindow]
  · rw [hexec, arithmetic_of_window hw] at ht
    obtain rfl := Host.Outcome.next.inj ht
    have hp : window fs (advance .seq (exch w x y (s.setWindow w))).p = some w := by
      simpa only [advance_p, exch, setReg_p, setWindow_p] using hw
    rw [hexec, arithmetic_of_window hp] at hu
    obtain rfl := Host.Outcome.next.inj hu
    rw [getReg_advance, exch_exch w hxy (s.setWindow w) _ (fun X => by rw [getReg_setWindow, getReg_advance]),
      getReg_setWindow]

/-! ### Adds and subtracts -/

theorem add_completes {dst : RegName} {x y : Option RegName} {cin : Bool} (hw : window fs s.p = some w)
    (hexec : exec i s = arithmetic fs (fun w => add w (some dst) x y cin) s) :
    ∃ (r : Reg) (c : Nat → Bool), exec i s = .next ((afterField s w (c (w.last + 1))).setReg dst r) ∧
      SerialSum s.params s.base w (s.operand x) (s.operand y) cin c (s.getReg dst) r := by
  refine ⟨_, _, ?_, serialSum_add s.params s.base w (window_bounds hw).2 _ _ _ cin⟩
  rw [hexec, arithmetic_of_window hw, add, writeField, advance_setReg_carry, getReg_setWindow, operand_setWindow,
    operand_setWindow, addCarryOut_eq]
  rfl

theorem sub_completes {dst : RegName} {x y : Option RegName} {cin : Bool} (hw : window fs s.p = some w)
    (hexec : exec i s = arithmetic fs (fun w => sub w (some dst) x y cin) s) :
    ∃ (r : Reg) (c : Nat → Bool), exec i s = .next ((afterField s w (c (w.last + 1))).setReg dst r) ∧
      SerialDifference s.params s.base w (s.operand x) (s.operand y) cin c (s.getReg dst) r := by
  refine ⟨_, _, ?_, serialDifference_sub s.params s.base w (window_bounds hw).2 _ _ _ cin⟩
  rw [hexec, arithmetic_of_window hw, sub, writeField, advance_setReg_carry, getReg_setWindow, operand_setWindow,
    operand_setWindow, subBorrowOut_eq]
  rfl

/-! ### Tests -/

theorem testEq_completes {x : RegName} (hw : window fs s.p = some w)
    (hexec : exec i s = arithmetic fs (fun w => testEq w (some x) none) s) :
    ∃ c, exec i s = .next (afterField s w c) ∧ (c = false ↔ ∀ k, w.first ≤ k → k ≤ w.last → (s.getReg x).nib k = 0) := by
  refine ⟨!fieldEq w (s.getReg x) Reg.zero, ?_, ?_⟩
  · rw [hexec, arithmetic_of_window hw, testEq, operand_setWindow, operand_setWindow]
    rfl
  · simp only [Bool.not_eq_false', fieldEq_iff w (window_bounds hw).2, Reg.nib_zero]

theorem testNe_completes {x : RegName} (hw : window fs s.p = some w)
    (hexec : exec i s = arithmetic fs (fun w => testNe w (some x) none) s) :
    ∃ c, exec i s = .next (afterField s w c) ∧ (c = false ↔ ∃ k, w.first ≤ k ∧ k ≤ w.last ∧ (s.getReg x).nib k ≠ 0) := by
  refine ⟨fieldEq w (s.getReg x) Reg.zero, ?_, ?_⟩
  · rw [hexec, arithmetic_of_window hw, testNe, operand_setWindow, operand_setWindow]
    simp only [State.verdict, Bool.not_not]
    rfl
  · rw [← Bool.not_eq_true, fieldEq_iff w (window_bounds hw).2]
    simp only [Reg.nib_zero, not_forall, exists_prop, ne_eq]

/-! ### Shifts -/

theorem nib_shiftedLeft_first {w : Window} (hle : w.first ≤ w.last) (hlast : w.last ≤ 13) (x : Reg) :
    (shiftedLeft w x).nib w.first = 0 := by
  rw [shiftedLeft, nib_overField_inside hlast x _ (le_refl _) hle, if_pos rfl]

theorem nib_shiftedLeft_of_gt {w : Window} (hlast : w.last ≤ 13) (x : Reg) {k : Nat} (hfirst : w.first < k)
    (hk : k ≤ w.last) : (shiftedLeft w x).nib k = x.nib (k - 1) := by
  rw [shiftedLeft, nib_overField_inside hlast x _ hfirst.le hk, if_neg hfirst.ne']

theorem shr_completes {x : RegName} (hw : window fs s.p = some w)
    (hexec : exec i s = arithmetic fs (fun w => shr w x) s) :
    ∃ r : Reg, exec i s = .next ((afterField s w false).setReg x r) ∧ SameOutside w (s.getReg x) r ∧
      r.nib w.last = 0 ∧ ∀ k, w.first ≤ k → k < w.last → r.nib k = (s.getReg x).nib (k + 1) := by
  obtain ⟨hle, hlast⟩ := window_bounds hw
  refine ⟨shiftedRight w (s.getReg x), ?_, sameOutside_overField w _ _, nib_shiftedRight_last hle hlast _,
    fun _ => nib_shiftedRight_of_lt hlast _⟩
  rw [hexec, arithmetic_of_window hw, shr, advance_setReg_carry, getReg_setWindow]

theorem shl_completes {x : RegName} (hw : window fs s.p = some w)
    (hexec : exec i s = arithmetic fs (fun w => shl w x) s) :
    ∃ r : Reg, exec i s = .next ((afterField s w false).setReg x r) ∧ SameOutside w (s.getReg x) r ∧
      r.nib w.first = 0 ∧ ∀ k, w.first < k → k ≤ w.last → r.nib k = (s.getReg x).nib (k - 1) := by
  obtain ⟨hle, hlast⟩ := window_bounds hw
  refine ⟨shiftedLeft w (s.getReg x), ?_, sameOutside_overField w _ _, nib_shiftedLeft_first hle hlast _,
    fun _ => nib_shiftedLeft_of_gt hlast _⟩
  rw [hexec, arithmetic_of_window hw, shl, advance_setReg_carries, getReg_setWindow]

end Complete

/-! ### The statements, instruction by instruction -/

/-- Settles O30: three copies of the absent operand and three of a register. -/
theorem zeroingAndCopyingComplete : Obligations.ZeroingAndCopyingComplete := by
  unfold Obligations.ZeroingAndCopyingComplete
  intro fs s w hw
  iterate 3 refine List.forall_mem_cons.2 ⟨zeroing_completes hw rfl, ?_⟩
  iterate 3 refine List.forall_mem_cons.2 ⟨copy_completes hw rfl, ?_⟩
  exact List.forall_mem_nil _

/-- Settles O31: two different registers each time. -/
theorem exchangesComplete : Obligations.ExchangesComplete := by
  unfold Obligations.ExchangesComplete
  intro fs s w hw
  iterate 3 refine List.forall_mem_cons.2 ⟨exchange_completes nofun hw (fun _ => rfl), ?_⟩
  exact List.forall_mem_nil _

/-- Settles O32. -/
theorem addsCompleteDigitBySerialDigit : Obligations.AddsCompleteDigitBySerialDigit := by
  unfold Obligations.AddsCompleteDigitBySerialDigit
  intro fs s w hw
  iterate 6 refine List.forall_mem_cons.2 ⟨add_completes hw rfl, ?_⟩
  exact List.forall_mem_nil _

/-- Settles O33. -/
theorem subtractsCompleteDigitBySerialDigit : Obligations.SubtractsCompleteDigitBySerialDigit := by
  unfold Obligations.SubtractsCompleteDigitBySerialDigit
  intro fs s w hw
  iterate 7 refine List.forall_mem_cons.2 ⟨sub_completes hw rfl, ?_⟩
  exact List.forall_mem_nil _

/-- Settles O40: the field against the absent operand. -/
theorem zeroTestsComplete : Obligations.ZeroTestsComplete := by
  unfold Obligations.ZeroTestsComplete
  intro fs s w hw
  refine ⟨?_, ?_⟩
  · exact List.forall_mem_cons.2 ⟨testEq_completes (x := .B) hw rfl,
      List.forall_mem_singleton.2 (testEq_completes (x := .C) hw rfl)⟩
  · exact List.forall_mem_cons.2 ⟨testNe_completes (x := .A) hw rfl,
      List.forall_mem_singleton.2 (testNe_completes (x := .C) hw rfl)⟩

/-- Settles O41. -/
theorem shiftsComplete : Obligations.ShiftsComplete := by
  unfold Obligations.ShiftsComplete
  intro fs s w hw
  refine ⟨?_, shl_completes hw rfl⟩
  iterate 3 refine List.forall_mem_cons.2 ⟨shr_completes hw rfl, ?_⟩
  exact List.forall_mem_nil _

end Sys2Proof.Machine
end

section
/-!
PROOFS. Fields as numbers (spec/40_field_ops.md R126, R134, R135).

On valid digits one digit of the adder is `digit + base * carry out = x + y + carry in`, with the digit below the base;
the subtracter's is `digit + y + borrow in = x + base * borrow out`.  The laws of R134 are the sums of these equations
over the field, weighted by the powers of the base.  Everything is shown of the digit-serial sum and difference as the
statements give them, so it holds of every adder that meets them.
-/

namespace Sys2Proof.Machine

/-! ### The digit adjustment (R126) -/

/-- No table changes the digit of a sum the source fixes. -/
theorem digitAdjustAdd_eq {P : Params} {base : Radix} {sum : Nat}
    (h : P.digitAdjust = .mod16 ∨ base = .binary ∨ sum ≤ 19) :
    digitAdjustAdd P base sum = BitVec.ofNat 4 (sum - base.toNat) := by
  unfold digitAdjustAdd
  split
  next htable =>
    have hsum : ¬ 20 ≤ sum := by
      obtain h | h | h := h
      · cases htable.symm.trans h
      · cases h
      · omega
    exact if_neg hsum
  next => rfl

/-- No table changes the digit of a difference the source fixes. -/
theorem digitAdjustSub_eq {P : Params} {base : Radix} {m : Nat}
    (h : P.digitAdjust = .mod16 ∨ base = .binary ∨ m ≤ 10) :
    digitAdjustSub P base m = BitVec.ofNat 4 (base.toNat + 16 - m) := by
  unfold digitAdjustSub
  split
  next htable =>
    have hm : ¬ 11 ≤ m := by
      obtain h | h | h := h
      · cases htable.symm.trans h
      · cases h
      · omega
    exact if_neg hm
  next => rfl

/-- Settles O37. -/
theorem digitAdjustmentIsTheDefaultWhereTheSourceFixesIt :
    Obligations.DigitAdjustmentIsTheDefaultWhereTheSourceFixesIt := by
  unfold Obligations.DigitAdjustmentIsTheDefaultWhereTheSourceFixesIt
  refine fun P base => ⟨fun sum _ _ h => ?_, fun m _ hm h => ?_⟩
  · rw [digitAdjustAdd_eq h, BitVec.toNat_ofNat]
  · rw [digitAdjustSub_eq h, BitVec.toNat_ofNat]
    omega

theorem radix_cases (base : Radix) :
    base = .binary ∧ base.toNat = 16 ∨ base = .decimal ∧ base.toNat = 10 := by
  cases base with
  | binary => exact .inl ⟨rfl, rfl⟩
  | decimal => exact .inr ⟨rfl, rfl⟩

/-- The adjusted digit of a sum of two valid digits and a carry. -/
theorem digitAdjustAdd_toNat {P : Params} {base : Radix} {sum : Nat} (hlt : sum < 2 * base.toNat) :
    (digitAdjustAdd P base sum).toNat = sum - base.toNat := by
  obtain ⟨hbase, hb⟩ | ⟨-, hb⟩ := radix_cases base
  · rw [digitAdjustAdd_eq (.inr (.inl hbase)), BitVec.toNat_ofNat]
    omega
  · rw [digitAdjustAdd_eq (.inr (.inr (by omega))), BitVec.toNat_ofNat]
    omega

/-- The adjusted digit of a difference of two valid digits and a borrow. -/
theorem digitAdjustSub_toNat {P : Params} {base : Radix} {m : Nat} (hpos : 1 ≤ m) (hle : m ≤ base.toNat) :
    (digitAdjustSub P base m).toNat = base.toNat - m := by
  obtain ⟨hbase, hb⟩ | ⟨-, hb⟩ := radix_cases base
  · rw [digitAdjustSub_eq (.inr (.inl hbase)), BitVec.toNat_ofNat]
    omega
  · rw [digitAdjustSub_eq (.inr (.inr (by omega))), BitVec.toNat_ofNat]
    omega

/-! ### One digit -/

section Serial
variable {P : Params} {base : Radix} {w : Window} {x y : Reg} {cin : Bool} {c : Nat → Bool} {old r : Reg} {k : Nat}

theorem base_le_16 (base : Radix) : base.toNat ≤ 16 := by
  cases base <;> decide

theorem one_lt_base (base : Radix) : 1 < base.toNat := by
  cases base <;> decide

theorem SerialSum.digit (h : SerialSum P base w x y cin c old r) (hx : ValidField base w x) (hy : ValidField base w y)
    (hfirst : w.first ≤ k) (hlast : k ≤ w.last) :
    (r.nib k).toNat + (c (k + 1)).toNat * base.toNat = (x.nib k).toNat + (y.nib k).toNat + (c k).toNat ∧
      (r.nib k).toNat < base.toNat := by
  have hxk := hx k hfirst hlast
  have hyk := hy k hfirst hlast
  have hc := (c k).toNat_le
  have hcarry := h.carries k hfirst hlast
  rw [h.digits k hfirst hlast]
  cases hout : c (k + 1) with
  | true =>
    have hsum := hcarry.1 hout
    rw [if_pos rfl, digitAdjustAdd_toNat (by omega), Bool.toNat_true]
    omega
  | false =>
    have hsum := mt hcarry.2 (hout ▸ Bool.false_ne_true)
    have hb := base_le_16 base
    rw [if_neg Bool.false_ne_true, BitVec.toNat_ofNat, Bool.toNat_false]
    omega

theorem SerialDifference.digit (h : SerialDifference P base w x y cin c old r) (hx : ValidField base w x)
    (hy : ValidField base w y) (hfirst : w.first ≤ k) (hlast : k ≤ w.last) :
    (r.nib k).toNat + (y.nib k).toNat + (c k).toNat = (x.nib k).toNat + (c (k + 1)).toNat * base.toNat ∧
      (r.nib k).toNat < base.toNat := by
  have hxk := hx k hfirst hlast
  have hyk := hy k hfirst hlast
  have hc := (c k).toNat_le
  have hborrow := h.borrows k hfirst hlast
  rw [h.digits k hfirst hlast]
  cases hout : c (k + 1) with
  | true =>
    have hlt := hborrow.1 hout
    rw [if_pos rfl, digitAdjustSub_toNat (by omega) (by omega), Bool.toNat_true]
    omega
  | false =>
    have hle := mt hborrow.2 (hout ▸ Bool.false_ne_true)
    have hb := base_le_16 base
    rw [if_neg Bool.false_ne_true, BitVec.toNat_ofNat, Bool.toNat_false]
    omega

/-- The digits of a sum of valid fields are valid. -/
theorem SerialSum.valid (h : SerialSum P base w x y cin c old r) (hx : ValidField base w x) (hy : ValidField base w y) :
    ValidField base w r := fun _ hfirst hlast => (h.digit hx hy hfirst hlast).2

/-- The digits of a difference of valid fields are valid. -/
theorem SerialDifference.valid (h : SerialDifference P base w x y cin c old r) (hx : ValidField base w x)
    (hy : ValidField base w y) : ValidField base w r := fun _ hfirst hlast => (h.digit hx hy hfirst hlast).2

/-! ### The field as a number (R134) -/

/-- The low `n` digits of a sum, with the carry out of them. -/
theorem SerialSum.digitsValue_eq (h : SerialSum P base w x y cin c old r) (hx : ValidField base w x)
    (hy : ValidField base w y) {n : Nat} (hn : w.first + n ≤ w.last + 1) :
    digitsValue base.toNat r w.first n + (c (w.first + n)).toNat * base.toNat ^ n =
      digitsValue base.toNat x w.first n + digitsValue base.toNat y w.first n + cin.toNat := by
  induction n with
  | zero => simp [digitsValue, h.carryIn]
  | succ n ih =>
    have hdigit := (h.digit hx hy (Nat.le_add_right w.first n) (by omega)).1
    have hlow := ih (by omega)
    simp only [digitsValue, ← Nat.add_assoc w.first n 1]
    calc _ = digitsValue base.toNat r w.first n +
          ((r.nib (w.first + n)).toNat + (c (w.first + n + 1)).toNat * base.toNat) * base.toNat ^ n := by ring
      _ = digitsValue base.toNat r w.first n + (c (w.first + n)).toNat * base.toNat ^ n +
          ((x.nib (w.first + n)).toNat + (y.nib (w.first + n)).toNat) * base.toNat ^ n := by rw [hdigit]; ring
      _ = _ := by rw [hlow]; ring

/-- The low `n` digits of a difference, with the borrow out of them. -/
theorem SerialDifference.digitsValue_eq (h : SerialDifference P base w x y cin c old r) (hx : ValidField base w x)
    (hy : ValidField base w y) {n : Nat} (hn : w.first + n ≤ w.last + 1) :
    digitsValue base.toNat r w.first n + digitsValue base.toNat y w.first n + cin.toNat =
      digitsValue base.toNat x w.first n + (c (w.first + n)).toNat * base.toNat ^ n := by
  induction n with
  | zero => simp [digitsValue, h.borrowIn]
  | succ n ih =>
    have hdigit := (h.digit hx hy (Nat.le_add_right w.first n) (by omega)).1
    have hlow := ih (by omega)
    simp only [digitsValue, ← Nat.add_assoc w.first n 1]
    calc _ = (digitsValue base.toNat r w.first n + digitsValue base.toNat y w.first n + cin.toNat) +
          ((r.nib (w.first + n)).toNat + (y.nib (w.first + n)).toNat) * base.toNat ^ n := by ring
      _ = digitsValue base.toNat x w.first n +
          ((r.nib (w.first + n)).toNat + (y.nib (w.first + n)).toNat + (c (w.first + n)).toNat) * base.toNat ^ n := by
        rw [hlow]; ring
      _ = _ := by rw [hdigit]; ring

/-- The low `n` digits of a valid field are a number below `base ^ n`. -/
theorem digitsValue_lt (hx : ValidField base w x) {n : Nat} (hn : w.first + n ≤ w.last + 1) :
    digitsValue base.toNat x w.first n < base.toNat ^ n := by
  induction n with
  | zero => simp [digitsValue]
  | succ n ih =>
    have hlow := ih (by omega)
    have hdigit := hx (w.first + n) (Nat.le_add_right w.first n) (by omega)
    calc _ < base.toNat ^ n + (x.nib (w.first + n)).toNat * base.toNat ^ n := Nat.add_lt_add_right hlow _
      _ = ((x.nib (w.first + n)).toNat + 1) * base.toNat ^ n := by ring
      _ ≤ base.toNat * base.toNat ^ n := Nat.mul_le_mul_right _ hdigit
      _ = base.toNat ^ (n + 1) := by ring

theorem first_add_width (hle : w.first ≤ w.last) : w.first + w.width = w.last + 1 := by
  simp only [Window.width]
  omega

theorem fieldValue_lt (hx : ValidField base w x) (hle : w.first ≤ w.last) :
    fieldValue base.toNat w x < base.toNat ^ w.width :=
  digitsValue_lt hx (first_add_width hle).le

theorem SerialSum.fieldValue_eq (h : SerialSum P base w x y cin c old r) (hle : w.first ≤ w.last)
    (hx : ValidField base w x) (hy : ValidField base w y) :
    fieldValue base.toNat w r + (c (w.last + 1)).toNat * base.toNat ^ w.width =
      fieldValue base.toNat w x + fieldValue base.toNat w y + cin.toNat := by
  rw [← first_add_width hle]
  exact h.digitsValue_eq hx hy (first_add_width hle).le

theorem SerialDifference.fieldValue_eq (h : SerialDifference P base w x y cin c old r) (hle : w.first ≤ w.last)
    (hx : ValidField base w x) (hy : ValidField base w y) :
    fieldValue base.toNat w r + fieldValue base.toNat w y + cin.toNat =
      fieldValue base.toNat w x + (c (w.last + 1)).toNat * base.toNat ^ w.width := by
  rw [← first_add_width hle]
  exact h.digitsValue_eq hx hy (first_add_width hle).le

/-- The borrow out of a difference of valid fields is the comparison of the fields as numbers. -/
theorem SerialDifference.borrow_iff (h : SerialDifference P base w x y cin c old r) (hle : w.first ≤ w.last)
    (hx : ValidField base w x) (hy : ValidField base w y) :
    c (w.last + 1) = true ↔ fieldValue base.toNat w x < fieldValue base.toNat w y + cin.toNat := by
  have heq := h.fieldValue_eq hle hx hy
  have hlt := fieldValue_lt (h.valid hx hy) hle
  cases hout : c (w.last + 1) with
  | true =>
    rw [hout, Bool.toNat_true] at heq
    exact iff_of_true rfl (by omega)
  | false =>
    rw [hout, Bool.toNat_false] at heq
    exact iff_of_false Bool.false_ne_true (by omega)

end Serial

theorem getReg_setReg_carry (s : State) (X : RegName) (r : Reg) (c : Bool) :
    State.getReg { s.setReg X r with carry := c } X = r := by
  rw [getReg_carry, getReg_setReg, if_pos rfl]

/-- Settles O34: the sum is the result plus the carry times `base ^ L`, and the result is below `base ^ L`. -/
theorem addIsAdditionModuloTheField : Obligations.AddIsAdditionModuloTheField := by
  unfold Obligations.AddIsAdditionModuloTheField
  intro s w X x y cin hle hlast hx hy b t sum
  obtain ⟨⟨r, c, hadd, hsum⟩, -⟩ := addAndSubtractPrimitivesAreDigitSerial w (some X) x y cin s hle hlast
  have hresult : t.getReg X = r := (congrArg (State.getReg · X) hadd).trans (getReg_setReg_carry s X r _)
  have hcarry : t.carry = c (w.last + 1) := congrArg State.carry hadd
  rw [hresult, hcarry]
  have heq : fieldValue b w r + (c (w.last + 1)).toNat * b ^ w.width = sum := hsum.fieldValue_eq hle hx hy
  have hlt : fieldValue b w r < b ^ w.width := fieldValue_lt (hsum.valid hx hy) hle
  refine ⟨?_, ?_, hsum.valid hx hy⟩
  · rw [← heq, Nat.add_mul_mod_self_right, Nat.mod_eq_of_lt hlt]
  · rw [← heq]
    cases c (w.last + 1) with
    | true => exact iff_of_true rfl (by rw [Bool.toNat_true]; omega)
    | false => exact iff_of_false Bool.false_ne_true (by rw [Bool.toNat_false]; omega)

/-- Settles O35: the difference is the result less the borrow times `base ^ L`. -/
theorem subtractIsSubtractionModuloTheField : Obligations.SubtractIsSubtractionModuloTheField := by
  unfold Obligations.SubtractIsSubtractionModuloTheField
  intro s w X x y cin hle hlast hx hy b t
  obtain ⟨-, r, c, hsub, hdiff⟩ := addAndSubtractPrimitivesAreDigitSerial w (some X) x y cin s hle hlast
  have hresult : t.getReg X = r := (congrArg (State.getReg · X) hsub).trans (getReg_setReg_carry s X r _)
  have hcarry : t.carry = c (w.last + 1) := congrArg State.carry hsub
  rw [hresult, hcarry]
  have hlt := fieldValue_lt (hdiff.valid hx hy) hle
  refine ⟨?_, hdiff.borrow_iff hle hx hy, hdiff.valid hx hy⟩
  have heq : (fieldValue s.base.toNat w (s.operand x) : Int) - fieldValue s.base.toNat w (s.operand y) - cin.toNat =
      fieldValue s.base.toNat w r - (c (w.last + 1)).toNat * (s.base.toNat ^ w.width : Nat) := by
    have := hdiff.fieldValue_eq hle hx hy
    zify at this ⊢
    linarith
  rw [heq, Int.sub_mul_emod_self_right, Int.emod_eq_of_lt (Int.natCast_nonneg _) (by exact_mod_cast hlt)]

/-! ### Comparisons (R175, R176) -/

/-- Every field is valid in base 16. -/
theorem validField_binary (w : Window) (r : Reg) : ValidField .binary w r := fun k _ _ => (r.nib k).isLt

/-- The borrow does not depend on the base, so it compares the fields in base 16, whatever the nibbles. -/
theorem subBorrowOut_eq_false_iff {w : Window} (hle : w.first ≤ w.last) (hlast : w.last ≤ 13) (x y : Reg) :
    subBorrowOut w x y false = false ↔ fieldValue 16 w y ≤ fieldValue 16 w x := by
  have hdiff := serialDifference_sub Params.default .binary w hlast x y Reg.zero false
  have hborrow := hdiff.borrow_iff hle (validField_binary w x) (validField_binary w y)
  rw [← Bool.not_eq_true, subBorrowOut_eq, hborrow, Bool.toNat_false, Nat.add_zero, Nat.not_lt]
  rfl

theorem compare_completes {fs : FieldMod} {s : State} {w : Window} {i : Instr} {y : RegName}
    (hw : window fs s.p = some w) (hexec : exec i s = arithmetic fs (fun w => sub w none (some .A) (some y) false) s) :
    ∃ c, exec i s = .next (afterField s w c) ∧ (c = false ↔ fieldValue 16 w (s.getReg y) ≤ fieldValue 16 w s.regA) := by
  obtain ⟨hle, hlast⟩ := window_bounds hw
  refine ⟨_, ?_, subBorrowOut_eq_false_iff hle hlast s.regA (s.getReg y)⟩
  rw [hexec, arithmetic_of_window hw, sub, writeField, operand_setWindow, operand_setWindow, advance_carry_setWindow]
  rfl

/-- Settles O39. -/
theorem comparisonsComplete : Obligations.ComparisonsComplete := by
  unfold Obligations.ComparisonsComplete
  intro fs s w hw
  exact List.forall_mem_cons.2 ⟨compare_completes (y := .C) hw rfl,
    List.forall_mem_singleton.2 (compare_completes (y := .B) hw rfl)⟩

/-! ### Carries of the constants (R135, R164 to R171) -/

section Constants
variable {P : Params} {base : Radix} {w : Window} {x : Reg} {c : Nat → Bool} {old r : Reg} {n : Nat}

/-- A statement about the nibbles below `first + n + 1` is one about those below `first + n` and the nibble there. -/
theorem forall_field_succ {p : Nat → Prop} {first n : Nat} :
    (∀ k, first ≤ k → k < first + (n + 1) → p k) ↔ (∀ k, first ≤ k → k < first + n → p k) ∧ p (first + n) := by
  refine ⟨fun h => ⟨fun k h1 h2 => h k h1 (by omega), h _ (Nat.le_add_right _ _) (by omega)⟩, fun ⟨hlow, hn⟩ k h1 h2 => ?_⟩
  rcases Nat.lt_or_ge k (first + n) with hlt | hge
  · exact hlow k h1 hlt
  · exact (show first + n = k by omega) ▸ hn

theorem toNat_nib_zero (k : Nat) : (Reg.zero.nib k).toNat = 0 := by
  rw [Reg.nib_zero]
  rfl

/-- An increment carries past nibbles of `base - 1` only (R164). -/
theorem SerialSum.carry_increment (h : SerialSum P base w x Reg.zero true c old r) (hx : ValidField base w x)
    (hn : w.first + n ≤ w.last + 1) :
    c (w.first + n) = true ↔ ∀ k, w.first ≤ k → k < w.first + n → (x.nib k).toNat = base.toNat - 1 := by
  induction n with
  | zero => exact iff_of_true h.carryIn fun k h1 h2 => by omega
  | succ n ih =>
    have hcarry := h.carries (w.first + n) (Nat.le_add_right _ _) (by omega)
    have hdigit := hx (w.first + n) (Nat.le_add_right _ _) (by omega)
    have hbase := one_lt_base base
    rw [toNat_nib_zero, Nat.add_zero] at hcarry
    rw [forall_field_succ, ← ih (by omega), ← Nat.add_assoc, hcarry]
    cases c (w.first + n) with
    | true => simp only [Bool.toNat_true, true_and]; omega
    | false => simp only [Bool.toNat_false, Bool.false_eq_true, false_and, iff_false]; omega

/-- A decrement borrows past zero nibbles only (R168). -/
theorem SerialDifference.borrow_decrement (h : SerialDifference P base w x Reg.zero true c old r)
    (hn : w.first + n ≤ w.last + 1) :
    c (w.first + n) = true ↔ ∀ k, w.first ≤ k → k < w.first + n → x.nib k = 0 := by
  induction n with
  | zero => exact iff_of_true h.borrowIn fun k h1 h2 => by omega
  | succ n ih =>
    have hborrow := h.borrows (w.first + n) (Nat.le_add_right _ _) (by omega)
    rw [toNat_nib_zero, Nat.zero_add] at hborrow
    rw [forall_field_succ, ← ih (by omega), ← Nat.add_assoc, hborrow]
    cases c (w.first + n) with
    | true =>
      simp only [Bool.toNat_true, true_and, Nat.lt_one_iff, BitVec.toNat_eq]
      rfl
    | false => simp only [Bool.toNat_false, Nat.not_lt_zero, Bool.false_eq_true, false_and]

/-- A negation borrows from the first nibble that is not zero on (R170). -/
theorem SerialDifference.borrow_negation (h : SerialDifference P base w Reg.zero x false c old r)
    (hn : w.first + n ≤ w.last + 1) :
    c (w.first + n) = false ↔ ∀ k, w.first ≤ k → k < w.first + n → x.nib k = 0 := by
  induction n with
  | zero => exact iff_of_true h.borrowIn fun k h1 h2 => by omega
  | succ n ih =>
    have hborrow := h.borrows (w.first + n) (Nat.le_add_right _ _) (by omega)
    rw [toNat_nib_zero] at hborrow
    rw [forall_field_succ, ← ih (by omega), ← Nat.add_assoc, ← Bool.not_eq_true, hborrow, Nat.not_lt, Nat.le_zero,
      Nat.add_eq_zero_iff]
    cases c (w.first + n) with
    | true => simp
    | false => simp [BitVec.toNat_eq]

/-- The complement borrows from every nibble (R171). -/
theorem SerialDifference.borrow_complement (h : SerialDifference P base w Reg.zero x true c old r)
    (hn : w.first + n ≤ w.last + 1) : c (w.first + n) = true := by
  induction n with
  | zero => exact h.borrowIn
  | succ n ih =>
    refine (h.borrows (w.first + n) (Nat.le_add_right _ _) (by omega)).2 ?_
    rw [ih (by omega), toNat_nib_zero, Bool.toNat_true]
    omega

/-- Adding the absent operand carries nowhere on valid digits. -/
theorem SerialSum.carry_zero (h : SerialSum P base w x Reg.zero false c old r) (hx : ValidField base w x)
    (hn : w.first + n ≤ w.last + 1) : c (w.first + n) = false := by
  induction n with
  | zero => exact h.carryIn
  | succ n ih =>
    have hcarry := h.carries (w.first + n) (Nat.le_add_right _ _) (by omega)
    have hdigit := hx (w.first + n) (Nat.le_add_right _ _) (by omega)
    rw [ih (by omega), toNat_nib_zero, Bool.toNat_false] at hcarry
    rw [← Bool.not_eq_true, ← Nat.add_assoc, hcarry]
    omega

/-- A register less itself borrows nowhere. -/
theorem SerialDifference.borrow_self (h : SerialDifference P base w x x false c old r)
    (hn : w.first + n ≤ w.last + 1) : c (w.first + n) = false := by
  induction n with
  | zero => exact h.borrowIn
  | succ n ih =>
    have hborrow := h.borrows (w.first + n) (Nat.le_add_right _ _) (by omega)
    rw [ih (by omega), Bool.toNat_false, Nat.add_zero] at hborrow
    rw [← Bool.not_eq_true, ← Nat.add_assoc, hborrow]
    exact lt_irrefl _

end Constants

/-! ### The statements on constants -/

/-- The nibbles of a window are those below `first + width`. -/
theorem forall_window_iff {w : Window} (hle : w.first ≤ w.last) {p : Nat → Prop} :
    (∀ k, w.first ≤ k → k ≤ w.last → p k) ↔ ∀ k, w.first ≤ k → k < w.first + w.width → p k := by
  simp only [first_add_width hle, Nat.lt_succ_iff]

/-- The carry an instruction leaves in PREV_CARRY, out of an equation that gives its next state. -/
theorem prevCarry_of_exec {i : Instr} {s t : State} {w : Window} {X : RegName} {r : Reg} {c : Bool}
    (hexec : exec i s = .next ((afterField s w c).setReg X r)) (h : exec i s = .next t) : t.prevCarry = c := by
  obtain rfl := Host.Outcome.next.inj (hexec.symm.trans h)
  rw [setReg_prevCarry, afterField_prevCarry]

/-- Settles O36: no nibble carries, so the sum's digits are the nibbles themselves and the difference's are 0. -/
theorem addZeroAndSubtractSelf : Obligations.AddZeroAndSubtractSelf := by
  unfold Obligations.AddZeroAndSubtractSelf
  intro s w X hle hlast
  have hall {k : Nat} (hfirst : w.first ≤ k) : w.first + (k - w.first) = k := by omega
  refine ⟨fun hx => ?zero, ?self⟩
  case zero =>
    obtain ⟨⟨r, c, hadd, hsum⟩, -⟩ := addAndSubtractPrimitivesAreDigitSerial w (some X) (some X) none false s hle hlast
    have hcarry {k : Nat} (hfirst : w.first ≤ k) (hk : k ≤ w.last + 1) : c k = false :=
      hall hfirst ▸ SerialSum.carry_zero hsum hx ((hall hfirst).symm ▸ hk)
    have hr : r = s.getReg X := Reg.ext_nib fun k hk => by
      by_cases hin : w.first ≤ k ∧ k ≤ w.last
      · have hdigit := hsum.digits k hin.1 hin.2
        rw [hcarry (by omega) (by omega), hcarry hin.1 (by omega)] at hdigit
        simpa [State.operand] using hdigit
      · exact hsum.outside k hk hin
    refine hadd.trans ?_
    rw [hr, hcarry (by omega) (le_refl _)]
    simp only [setReg_getReg]
  case self =>
    obtain ⟨-, r, c, hsub, hdiff⟩ :=
      addAndSubtractPrimitivesAreDigitSerial w (some X) (some X) (some X) false s hle hlast
    have hborrow {k : Nat} (hfirst : w.first ≤ k) (hk : k ≤ w.last + 1) : c k = false :=
      hall hfirst ▸ SerialDifference.borrow_self hdiff ((hall hfirst).symm ▸ hk)
    refine ⟨r, hborrow (by omega) (le_refl _) ▸ hsub, hdiff.outside, fun k hfirst hk => ?_⟩
    have hdigit := hdiff.digits k hfirst hk
    rw [hborrow (by omega) (by omega), hborrow hfirst (by omega)] at hdigit
    simpa using hdigit

section Carries
variable {fs : FieldMod} {s t : State} {w : Window} {i : Instr} {X : RegName}

theorem increment_carry_iff (hw : window fs s.p = some w)
    (hexec : exec i s = arithmetic fs (fun w => add w (some X) (some X) none true) s)
    (hx : ValidField s.base w (s.getReg X)) (h : exec i s = .next t) :
    t.prevCarry = true ↔ ∀ k, w.first ≤ k → k ≤ w.last → ((s.getReg X).nib k).toNat = s.base.toNat - 1 := by
  have hle := (window_bounds hw).1
  obtain ⟨r, c, hnext, hsum⟩ := add_completes hw hexec
  rw [prevCarry_of_exec hnext h, forall_window_iff hle, ← first_add_width hle]
  exact SerialSum.carry_increment hsum hx (first_add_width hle).le

theorem decrement_borrow_iff (hw : window fs s.p = some w)
    (hexec : exec i s = arithmetic fs (fun w => sub w (some X) (some X) none true) s) (h : exec i s = .next t) :
    t.prevCarry = true ↔ ∀ k, w.first ≤ k → k ≤ w.last → (s.getReg X).nib k = 0 := by
  have hle := (window_bounds hw).1
  obtain ⟨r, c, hnext, hdiff⟩ := sub_completes hw hexec
  rw [prevCarry_of_exec hnext h, forall_window_iff hle, ← first_add_width hle]
  exact SerialDifference.borrow_decrement hdiff (first_add_width hle).le

theorem negation_borrow_iff (hw : window fs s.p = some w)
    (hexec : exec i s = arithmetic fs (fun w => sub w (some X) none (some X) false) s) (h : exec i s = .next t) :
    t.prevCarry = false ↔ ∀ k, w.first ≤ k → k ≤ w.last → (s.getReg X).nib k = 0 := by
  have hle := (window_bounds hw).1
  obtain ⟨r, c, hnext, hdiff⟩ := sub_completes hw hexec
  rw [prevCarry_of_exec hnext h, forall_window_iff hle, ← first_add_width hle]
  exact SerialDifference.borrow_negation hdiff (first_add_width hle).le

theorem complement_borrow (hw : window fs s.p = some w)
    (hexec : exec i s = arithmetic fs (fun w => sub w (some X) none (some X) true) s) (h : exec i s = .next t) :
    t.prevCarry = true := by
  have hle := (window_bounds hw).1
  obtain ⟨r, c, hnext, hdiff⟩ := sub_completes hw hexec
  rw [prevCarry_of_exec hnext h, ← first_add_width hle]
  exact SerialDifference.borrow_complement hdiff (first_add_width hle).le

end Carries

/-- Settles O38: the carries of the constants, over the whole field. -/
theorem carriesOfIncrementDecrementAndComplement : Obligations.CarriesOfIncrementDecrementAndComplement := by
  unfold Obligations.CarriesOfIncrementDecrementAndComplement
  exact fun fs s t w hw =>
    ⟨fun h hx => increment_carry_iff (X := .A) hw rfl hx h, fun h hx => increment_carry_iff (X := .C) hw rfl hx h,
      decrement_borrow_iff (X := .A) hw rfl, decrement_borrow_iff (X := .C) hw rfl,
      negation_borrow_iff (X := .C) hw rfl, complement_borrow (X := .C) hw rfl⟩

end Sys2Proof.Machine
end

section
/-!
PROOFS. Digits stay below the base (spec/10_state.md R22, R32; spec/95_test_vectors.md I1).

A field write of digits below the base keeps a register below it, so every primitive keeps the register file below it;
the rest of the machine moves whole registers, or F, or a nibble the statement bounds.
-/

namespace Sys2Proof.Machine

/-- Every nibble of the register is below `b`. -/
def Below (b : Nat) (r : Reg) : Prop := ∀ k, k < 14 → (r.nib k).toNat < b

theorem below_zero (base : Radix) : Below base.toNat Reg.zero := fun k _ => by
  have := one_lt_base base
  rw [toNat_nib_zero]
  omega

theorem Below.overField {b : Nat} {w : Window} {old : Reg} {f : Nat → Nibble} (hold : Below b old)
    (hf : ∀ k, w.first ≤ k → k ≤ w.last → k < 14 → (f k).toNat < b) : Below b (overField w old f) := fun k hk => by
  rw [nib_overField w old f hk]
  split
  next hin => exact hf k hin.1 hin.2 hk
  next => exact hold k hk

section Keeps
variable {s t : State}

/-- Valid digits depend on the registers and the base only. -/
theorem ValidDigits.of_eq (hs : ValidDigits s) (hreg : ∀ X, t.getReg X = s.getReg X) (hbase : t.base = s.base) :
    ValidDigits t := fun X k hk => by
  rw [hreg X, hbase]
  exact hs X k hk

theorem ValidDigits.below (hs : ValidDigits s) (X : RegName) : Below s.base.toNat (s.getReg X) := hs X

theorem ValidDigits.setReg (hs : ValidDigits s) {X : RegName} {r : Reg} (hr : Below s.base.toNat r) :
    ValidDigits (s.setReg X r) := fun X' k hk => by
  rw [getReg_setReg, setReg_base]
  split
  · exact hr k hk
  · exact hs X' k hk

theorem ValidDigits.operand (hs : ValidDigits s) (o : Option RegName) : Below s.base.toNat (s.operand o) := by
  cases o with
  | none => exact below_zero s.base
  | some X => exact hs X

theorem ValidDigits.validField (hs : ValidDigits s) (o : Option RegName) {w : Window} (hlast : w.last ≤ 13) :
    ValidField s.base w (s.operand o) := fun k _ hk => hs.operand o k (by omega)

theorem ValidDigits.writeField (hs : ValidDigits s) {w : Window} {dst : Option RegName} {f : Nat → Nibble}
    (hf : ∀ k, w.first ≤ k → k ≤ w.last → (f k).toNat < s.base.toNat) : ValidDigits (writeField w dst f s) := by
  cases dst with
  | none => exact hs
  | some X => exact hs.setReg (Below.overField (hs X) fun k hfirst hk _ => hf k hfirst hk)

/-- The adder's digits over valid operands are valid. -/
theorem ValidDigits.addDigit_lt (hs : ValidDigits s) {w : Window} (hlast : w.last ≤ 13) (x y : Option RegName) (cin : Bool)
    {k : Nat} (hfirst : w.first ≤ k) (hk : k ≤ w.last) :
    (addDigit s.params s.base w (s.operand x) (s.operand y) cin k).toNat < s.base.toNat := by
  have hsum := serialSum_add s.params s.base w hlast (s.operand x) (s.operand y) Reg.zero cin
  have hvalid := hsum.valid (hs.validField x hlast) (hs.validField y hlast) k hfirst hk
  rwa [nib_overField_inside hlast _ _ hfirst hk] at hvalid

/-- The subtracter's digits over valid operands are valid. -/
theorem ValidDigits.subDigit_lt (hs : ValidDigits s) {w : Window} (hlast : w.last ≤ 13) (x y : Option RegName) (cin : Bool)
    {k : Nat} (hfirst : w.first ≤ k) (hk : k ≤ w.last) :
    (subDigit s.params s.base w (s.operand x) (s.operand y) cin k).toNat < s.base.toNat := by
  have hdiff := serialDifference_sub s.params s.base w hlast (s.operand x) (s.operand y) Reg.zero cin
  have hvalid := hdiff.valid (hs.validField x hlast) (hs.validField y hlast) k hfirst hk
  rwa [nib_overField_inside hlast _ _ hfirst hk] at hvalid

theorem Below.shiftedRight {base : Radix} {w : Window} (hlast : w.last ≤ 13) {x : Reg} (hx : Below base.toNat x) :
    Below base.toNat (shiftedRight w x) :=
  hx.overField fun k _ hk _ => by
    split
    · exact Nat.zero_lt_of_lt (one_lt_base base)
    · exact hx (k + 1) (by omega)

theorem Below.shiftedLeft {base : Radix} {w : Window} {x : Reg} (hx : Below base.toNat x) :
    Below base.toNat (shiftedLeft w x) :=
  hx.overField fun k _ _ hk => by
    split
    · exact Nat.zero_lt_of_lt (one_lt_base base)
    · exact hx (k - 1) (by omega)

/-- Every primitive keeps the digits of the register file valid. -/
theorem FieldPrimitive.keeps_validDigits {op : Window → State → State} (h : FieldPrimitive op) {w : Window}
    (hlast : w.last ≤ 13) (hs : ValidDigits s) : ValidDigits (op w s) := by
  cases h with
  | copy dst src => exact hs.setReg ((hs.below dst).overField fun k _ _ hk => hs.operand src k hk)
  | exch x y =>
    have hx : ValidDigits (s.setReg x (overField w (s.getReg x) (s.getReg y).nib)) :=
      hs.setReg ((hs.below x).overField fun k _ _ hk => hs y k hk)
    refine hx.setReg ?_
    rw [setReg_base]
    exact (hs.below y).overField fun k _ _ hk => hs x k hk
  | add dst x y cin =>
    have hwrite := hs.writeField (dst := dst) fun k => hs.addDigit_lt hlast x y cin
    exact hwrite.of_eq (fun X => getReg_add w dst x y cin s X) rfl
  | sub dst x y cin =>
    have hwrite := hs.writeField (dst := dst) fun k => hs.subDigit_lt hlast x y cin
    exact hwrite.of_eq (fun X => getReg_sub w dst x y cin s X) rfl
  | testEq x y => exact hs.of_eq (getReg_verdict s _) rfl
  | testNe x y => exact hs.of_eq (getReg_verdict s _) rfl
  | shr x =>
    have hwrite : ValidDigits (s.setReg x (shiftedRight w (s.getReg x))) := hs.setReg (Below.shiftedRight hlast (hs x))
    exact hwrite.of_eq (fun X => getReg_shr w x s X) rfl
  | shl x =>
    have hwrite : ValidDigits (s.setReg x (shiftedLeft w (s.getReg x))) := hs.setReg (Below.shiftedLeft (hs x))
    exact hwrite.of_eq (fun X => getReg_shl w x s X) rfl

theorem ValidDigits.setWindow (hs : ValidDigits s) (w : Window) : ValidDigits (s.setWindow w) :=
  hs.of_eq (getReg_setWindow s w) rfl

theorem ValidDigits.advance (hs : ValidDigits s) (n : Next) : ValidDigits (advance n s) :=
  hs.of_eq (getReg_advance s n) rfl

theorem exec_arith_keeps_validDigits {i : Instr} {fs : FieldMod} (hi : fieldMod? i = some fs) (hs : ValidDigits s)
    (h : exec i s = .next t) : ValidDigits t := by
  obtain ⟨op, hop, hexec⟩ := exec_eq_arithmetic hi
  obtain ⟨w, hw, rfl⟩ := arithmetic_eq_next.1 ((hexec s).symm.trans h)
  exact (hop.keeps_validDigits (window_bounds hw).2 (hs.setWindow w)).advance _

/-- Outside the arithmetic class, an instruction that writes neither the base nor a digit at or above it keeps the
register file valid: the whole-register moves by their primitives, the moves of F and `load n` by one field write, the
others by writing no register. -/
theorem exec_keeps_validDigits_of_not_arith {i : Instr} (hi : fieldMod? i = none) (hs : ValidDigits s)
    (hf : s.f.toNat < s.base.toNat) (hload : ∀ n, i = .loadN n → n.toNat < s.base.toNat)
    (hbase : isSpecial i [.binary, .decimal] = false) (h : exec i s = .next t) : ValidDigits t := by
  have hwhole {op : Window → State → State} (hop : FieldPrimitive op) :
      ValidDigits (op wholeWindow (s.setWindow wholeWindow)) :=
    hop.keeps_validDigits (le_refl 13) (hs.setWindow wholeWindow)
  cases i with
  | binary | decimal => cases hbase
  | m1ExchC | m2ExchC =>
    obtain rfl := wholeRegister_eq_next.1 h
    exact (hwhole (.exch _ _)).advance _
  | m1ToC | m2ToC | yToA =>
    obtain rfl := wholeRegister_eq_next.1 h
    exact (hwhole (.copy _ _)).advance _
  | clearRegisters =>
    simp only [exec, execClearRegisters] at h
    obtain rfl := wholeRegister_eq_next.1 h
    simp only [copy_whole]
    refine ValidDigits.advance (fun X k _ => ?_) _
    have := one_lt_base s.base
    cases X <;> exact (toNat_nib_zero k).trans_lt (Nat.zero_lt_of_lt this)
  | stackToA =>
    simp only [exec, execStackToA] at h
    obtain rfl := wholeRegister_eq_next.1 h
    have hmoves := ((hs.setReg (X := .A) (hs.below .Y)).setReg (X := .Y) (hs.below .Z)).setReg (X := .Z) (hs.below .T)
    exact hmoves.of_eq (fun X => by cases X <;> rfl) rfl
  | downRotate =>
    simp only [exec, execDownRotate] at h
    obtain rfl := wholeRegister_eq_next.1 h
    have hmoves := (((hs.setReg (X := .T) (hs.below .C)).setReg (X := .C) (hs.below .Y)).setReg (X := .Y)
      (hs.below .Z)).setReg (X := .Z) (hs.below .T)
    exact hmoves.of_eq (fun X => by cases X <;> rfl) rfl
  | cToStack =>
    simp only [exec, execCToStack] at h
    obtain rfl := wholeRegister_eq_next.1 h
    have hmoves := ((hs.setReg (X := .T) (hs.below .Z)).setReg (X := .Z) (hs.below .Y)).setReg (X := .Y) (hs.below .C)
    exact hmoves.of_eq (fun X => by cases X <;> rfl) rfl
  | fToA | fExchA =>
    obtain rfl := finish_eq_next.1 h
    have hwrite : ValidDigits (s.setReg .A (overField ⟨0, 0⟩ s.regA fun _ => s.f)) :=
      hs.setReg ((hs.below .A).overField fun _ _ _ _ => hf)
    exact hwrite.of_eq (fun X => by cases X <;> rfl) rfl
  | loadN n =>
    obtain ⟨-, hnext⟩ := raise_check_eq_next.1 h
    obtain rfl := finish_eq_next.1 hnext
    have hwrite : ValidDigits (s.setReg .C (overField ⟨s.p, s.p⟩ s.regC fun _ => n)) :=
      hs.setReg ((hs.below .C).overField fun _ _ _ _ => hload n rfl)
    exact hwrite.of_eq (fun X => by cases X <;> rfl) rfl
  | nop | woodstock | decP | incP | setP | cToDataAddress | clearDataRegisters | setS | clearS | delayedSelectRom
  | displayToggle | displayOff | ifS0 | ifS1 | ifPEq | ifPNe | resetS | keysToRom | ret | selectRom | jsb | ifNcGoto =>
    refine hs.of_eq (fun X => ?_) ((specialStateWritersAreAsListed s t _ h).2.2.1 rfl)
    rw [exec_eq_withWritten h]
    cases X <;> rfl
  | _ => cases hi

/-- Every instruction that leaves the base alone keeps the register file valid, `load n` of a digit below the base. -/
theorem exec_keeps_validDigits {i : Instr} (hs : ValidDigits s) (hf : s.f.toNat < s.base.toNat)
    (hload : ∀ n, i = .loadN n → n.toNat < s.base.toNat) (hbase : isSpecial i [.binary, .decimal] = false)
    (h : exec i s = .next t) : ValidDigits t := by
  cases hi : fieldMod? i with
  | some fs => exact exec_arith_keeps_validDigits hi hs h
  | none => exact exec_keeps_validDigits_of_not_arith hi hs hf hload hbase h

end Keeps

theorem getReg_base (s : State) (base : Radix) (X : RegName) : State.getReg { s with base := base } X = s.getReg X := by
  cases X <;> rfl

/-- Settles O17: `binary` and `decimal` by the bounds of the nibbles themselves, `f exch a` by nibble 0 of A, every other
instruction by the frame. -/
theorem digitsStayBelowTheBase : Obligations.DigitsStayBelowTheBase := by
  unfold Obligations.DigitsStayBelowTheBase
  intro s t i _ hs hf h hload hdecimal
  cases hbase : isSpecial i [.binary, .decimal] with
  | true =>
    cases i with
    | binary =>
      obtain rfl := finish_eq_next.1 h
      exact ⟨fun X k _ => BitVec.isLt _, BitVec.isLt _⟩
    | decimal =>
      obtain rfl := finish_eq_next.1 h
      obtain ⟨hnibbles, hF⟩ := hdecimal rfl
      refine ⟨fun X k hk => ?_, hF⟩
      rw [getReg_advance, getReg_base]
      exact hnibbles X k hk
    | _ => cases hbase
  | false =>
    obtain ⟨-, hkeepF, hkeepBase, -⟩ := specialStateWritersAreAsListed s t i h
    refine ⟨exec_keeps_validDigits hs hf hload hbase h, ?_⟩
    rw [hkeepBase hbase]
    cases hexch : isSpecial i [.fExchA] with
    | false => exact hkeepF hexch ▸ hf
    | true =>
      cases i with
      | fExchA =>
        obtain rfl := finish_eq_next.1 h
        exact hs .A 0 (by decide)
      | _ => cases hexch

end Sys2Proof.Machine
end
